-- ==== Sys2Proof/Word.lean ====
section
/-! DEFINITION. The words of the hardware (00_scope.md R13, 20_memory.md R57): a byte is 8 bits, a word 16 bits,
a clock value 64 bits, a field of the command record 32 bits. -/

namespace Sys2Proof

/-- A byte: 8 bits (R13). -/
abbrev Byte := BitVec 8

/-- A word: 16 bits (R13). -/
abbrev Word := BitVec 16

/-- A value of the millisecond clock or of a deadline: `TIME_WIDTH` = 64 bits (R10, R57). -/
abbrev Time := BitVec 64

/-- A field of the command record: 32 bits (R38). -/
abbrev Long := BitVec 32

end Sys2Proof
end

