-- ==== Sys2Proof/Machine/Constants.lean ====
section
/-! DEFINITION. The constants the document fixes (00_scope.md R9) and the function-code whitelist
(30_encoding.md R83), gathered so that a corrected literal changes one place (93_implementation_defined.md U23). -/

namespace Sys2Proof.Machine

/-- `MAX_FRAME`: the capacity of the RawFrame in bytes (R9). -/
def maxFrame : Nat := 140

/-- `T35`: the silence threshold, in units of the clock (R9, R12). -/
def t35 : Nat := 5

/-- `N_COILS` and `N_DISCRETE`: positions of the coil word and of the discrete-input word (R9). -/
def nBits : Nat := 16

/-- `FILE_REF_TYPE` (R9). -/
def fileRefType : Byte := 6

/-- `FILE_NUMBER` (R9). -/
def fileNumber : Word := 1

/-- The supported function codes, "a fixed whitelist" (R83). -/
def functionCodes : List Byte := [1, 2, 3, 4, 5, 6, 15, 16, 17, 21]

end Sys2Proof.Machine
end

