-- ==== Sys2Proof/Machine/Operands.lean ====
section
/-! DEFINITION. How operands are made from frame bytes (00_scope.md R13 to R15, 30_encoding.md R81, R82): byte
order, bit fields, sign extension, truncation, and the length each request needs. -/

namespace Sys2Proof.Machine

/-- `hi(w)` = `w[15:8]` (R13). -/
def hi (w : Word) : Byte := w.extractLsb' 8 8

/-- `lo(w)` = `w[7:0]` (R13). -/
def lo (w : Word) : Byte := w.setWidth 8

/-- `{a, b}`: the word `a * 256 + b` (R13), big-endian on the wire (R51). -/
def be (a b : Byte) : Word := a ++ b

/-- `F[i]`, the byte at index `i` of a frame (R15); no rule reads past the captured length (R44). -/
def byteAt (f : List Byte) (i : Nat) : Byte := f.getD i 0

/-- `BE16(i)`: the big-endian word at index `i` (R15). -/
def be16 (f : List Byte) (i : Nat) : Word := be (byteAt f i) (byteAt f (i + 1))

/-- `ceil(n/8)` (R13): the bytes that hold `n` packed bits. -/
def ceilDiv8 (n : Nat) : Nat := (n + 7) / 8

/-- `end8` (R81): the end address, "start + quantity, truncated to 8 bits". -/
def end8 (start qty : Nat) : Nat := (start + qty) % 256

/-- `nw` of function 16 (R81, R187): `max(0, sext_8(F[5]))`, from the low byte of the quantity field alone. -/
def wordCount (qty : Word) : Nat := (lo qty).toInt.toNat

/-- `ba`, `bl` of function 21 (R81): a field in 16-bit-word units doubled to bytes, not truncated. -/
def doubled (field : Word) : Nat := 2 * field.toNat

/-- The fixed minimum length of a request of function `fc` (R82). -/
def minLength (fc : Byte) : Nat :=
  if fc ∈ [1, 2, 3, 4, 5, 6] then 8
  else if fc = 15 ∨ fc = 16 then 9
  else if fc = 21 then 12
  else 4

/-- `need(F, n)`: the length a request must have for its handler to find all its bytes (R82). -/
def needLength (f : List Byte) : Nat :=
  let fc := byteAt f 1
  if fc = 15 then 9 + ceilDiv8 (be16 f 4).toNat
  else if fc = 16 then 9 + 2 * wordCount (be16 f 4)
  else if fc = 21 then 12 + doubled (be16 f 8)
  else minLength fc

end Sys2Proof.Machine
end

