-- ==== Sys2Proof/Machine/Checksum.lean ====
section
/-! DEFINITION. The frame checksum (41_checksum.md): the Modbus CRC16, feedback 0xA001, seed 0xFFFF (R4, R120), the
byte swap that makes the checksum value (R121), generation (R122) and verification (R123). -/

namespace Sys2Proof.Machine

/-- One bit of the CRC loop (R120): shift right, and feed 0xA001 back when the bit shifted out is 1. -/
def crcBit (crc : Word) : Word := if crc.getLsbD 0 then (crc >>> 1) ^^^ 0xA001#16 else crc >>> 1

/-- One byte of the CRC loop (R120): the byte enters the low half, then eight bits are shifted out. -/
def crcByte (crc : Word) (b : Byte) : Word := Nat.repeat crcBit 8 (crc ^^^ b.setWidth 16)

/-- `CrcReg(bs)` (R120): the CRC register after a byte list, from the seed 0xFFFF. -/
def crcReg (bs : List Byte) : Word := bs.foldl crcByte 0xFFFF#16

/-- `Checksum(bs)` (R121): the CRC register with its two bytes exchanged. -/
def checksum (bs : List Byte) : Word := be (lo (crcReg bs)) (hi (crcReg bs))

/-- The two bytes appended to a frame body (R122): "high byte, then low byte" of the checksum value. -/
def checksumBytes (bs : List Byte) : List Byte := [hi (checksum bs), lo (checksum bs)]

/-- `Verify(F, n)` on the captured bytes (R123): the checksum of all but the last two bytes, against those two. -/
def verify (f : List Byte) : Bool := checksum (f.take (f.length - 2)) == be16 f (f.length - 2)

end Sys2Proof.Machine
end

