-- ==== Sys2Proof/Syntax.lean ====
section
/-! DEFINITION. The instructions: the request frames of 30_encoding.md (R73 to R77), one constructor per row of
spec/opcode_table.json. A constructor holds every byte of the request between the function byte and the checksum:
the operands, the fields that are carried and never examined (R86), and the surplus bytes before the checksum
(R82), so that no bit of an encoding is dropped (log 21). The address byte is the address filter's (R108). -/

namespace Sys2Proof

/-- The request of one transaction, address byte and checksum taken off. -/
inductive Instr where
  /-- RDCOIL, function 1, read coils (R161; format `RQ_RD`, R73) -/
  | rdcoil (start qty : Word) (surplus : List Byte)
  /-- RDDISC, function 2, read discrete inputs (R162; format `RQ_RD`, R73) -/
  | rddisc (start qty : Word) (surplus : List Byte)
  /-- RDHOLD, function 3, read holding registers (R183; format `RQ_RD`, R73) -/
  | rdhold (start qty : Word) (surplus : List Byte)
  /-- RDINP, function 4, read input registers (R184; format `RQ_RD`, R73) -/
  | rdinp (start qty : Word) (surplus : List Byte)
  /-- WRCOIL, function 5, write single coil (R163; format `RQ_WS`, R74): the byte at index 5 is not examined -/
  | wrcoil (start : Word) (onoff ignored : Byte) (surplus : List Byte)
  /-- WRREG, function 6, write single register (R185; format `RQ_WS`, R74) -/
  | wrreg (start value : Word) (surplus : List Byte)
  /-- WRMCOIL, function 15, write multiple coils (R164; format `RQ_WM`, R75): `bytecnt` is not examined, `data` is
  every byte from index 7 to the checksum -/
  | wrmcoil (start qty : Word) (bytecnt : Byte) (data : List Byte)
  /-- WRMREG, function 16, write multiple registers (R187; format `RQ_WM`, R75): `bytecnt` is not examined, `data`
  is every byte from index 7 to the checksum -/
  | wrmreg (start qty : Word) (bytecnt : Byte) (data : List Byte)
  /-- RPTID, function 17, report slave id (R201; format `RQ_ID`, R76) -/
  | rptid (surplus : List Byte)
  /-- WRFILE, function 21, write file record (R206; format `RQ_FR`, R77): `dlen` is echoed and not examined, `data`
  is every byte from index 10 to the checksum -/
  | wrfile (dlen reftype : Byte) (fileno recno reclen : Word) (data : List Byte)
  /-- ILLEGAL, any function byte outside the whitelist (R84, R233) -/
  | illegal (fc : Byte) (payload : List Byte)
deriving DecidableEq, Repr

end Sys2Proof
end

