-- ==== Sys2Proof/WellFormed.lean ====
section
/-! DEFINITION. Which terms of `Instr` are requests of this hardware: the whole frame fits the RawFrame (R30, R70),
and ILLEGAL stands only for the function bytes outside the whitelist (R84). The checks on values and ranges are not
here: a request that fails one is a request, and its meaning takes the exception (R130). -/

namespace Sys2Proof

/-- The length of the whole request frame, address byte and checksum included (R73 to R77). -/
def Instr.requestLength : Instr → Nat
  | .rdcoil _ _ surplus => 8 + surplus.length
  | .rddisc _ _ surplus => 8 + surplus.length
  | .rdhold _ _ surplus => 8 + surplus.length
  | .rdinp _ _ surplus => 8 + surplus.length
  | .wrcoil _ _ _ surplus => 8 + surplus.length
  | .wrreg _ _ surplus => 8 + surplus.length
  | .wrmcoil _ _ _ data => 9 + data.length
  | .wrmreg _ _ _ data => 9 + data.length
  | .rptid surplus => 4 + surplus.length
  | .wrfile _ _ _ _ _ data => 12 + data.length
  | .illegal _ payload => 4 + payload.length

/-- The frame is at most 140 bytes (R30, R70). -/
def Instr.fits (i : Instr) : Bool := i.requestLength ≤ Machine.maxFrame

/-- The function byte of ILLEGAL is none of the whitelist's (R84). -/
def Instr.illegalIsIllegal : Instr → Bool
  | .illegal fc _ => !Machine.functionCodes.contains fc
  | _ => true

/-- A request of this hardware. -/
def Instr.wellFormed (i : Instr) : Bool := i.fits && i.illegalIsIllegal

end Sys2Proof
end

