-- ==== Sys2Proof/Decode.lean ====
section
/-! DEFINITION. From captured frames to instructions and back (30_encoding.md R70 to R77, R81 to R84). The decoder is
total on byte lists and rejects by name; its checks are the first four steps of the validator (R130): short frame,
checksum, function code, fixed minimum length, in that order. The encoder is written from the same formats. -/

namespace Sys2Proof

open Machine

/-- Why a captured frame is no instruction. -/
inductive DecodeError where
  /-- shorter than 4 bytes (R132): the no-reply class -/
  | shortFrame
  /-- the checksum does not match (R133): the no-reply class -/
  | badChecksum
  /-- shorter than the fixed minimum of its function (R135): exception 3 -/
  | shortForFunction (fc : Byte)
deriving DecidableEq, Repr

/-- What the decoder makes of a captured frame. -/
inductive Decoded where
  | instr (i : Instr)
  | rejected (e : DecodeError)
deriving DecidableEq, Repr

/-- The instruction of function byte `fc` whose bytes from index 2 to the checksum are `p` (R73 to R77, R83, R84);
too few bytes are the fixed-length check (R135), which comes after the whitelist. -/
def decodePayload (fc : Byte) (p : List Byte) : Decoded :=
  match fc.toNat, p with
  | 1, a :: b :: c :: d :: r => .instr (.rdcoil (be a b) (be c d) r)
  | 2, a :: b :: c :: d :: r => .instr (.rddisc (be a b) (be c d) r)
  | 3, a :: b :: c :: d :: r => .instr (.rdhold (be a b) (be c d) r)
  | 4, a :: b :: c :: d :: r => .instr (.rdinp (be a b) (be c d) r)
  | 5, a :: b :: c :: d :: r => .instr (.wrcoil (be a b) c d r)
  | 6, a :: b :: c :: d :: r => .instr (.wrreg (be a b) (be c d) r)
  | 15, a :: b :: c :: d :: e :: r => .instr (.wrmcoil (be a b) (be c d) e r)
  | 16, a :: b :: c :: d :: e :: r => .instr (.wrmreg (be a b) (be c d) e r)
  | 17, r => .instr (.rptid r)
  | 21, l :: t :: a :: b :: c :: d :: e :: g :: r => .instr (.wrfile l t (be a b) (be c d) (be e g) r)
  | _, r => if functionCodes.contains fc then .rejected (.shortForFunction fc) else .instr (.illegal fc r)

/-- The decoder on a whole captured frame, checksum included. -/
def decode (f : List Byte) : Decoded :=
  if f.length < 4 then .rejected .shortFrame
  else if verify f then decodePayload (byteAt f 1) ((f.take (f.length - 2)).drop 2)
  else .rejected .badChecksum

/-- The function byte `F[1]` of a request (R83). -/
def Instr.functionCode : Instr → Byte
  | .rdcoil .. => 0x01
  | .rddisc .. => 0x02
  | .rdhold .. => 0x03
  | .rdinp .. => 0x04
  | .wrcoil .. => 0x05
  | .wrreg .. => 0x06
  | .wrmcoil .. => 0x0F
  | .wrmreg .. => 0x10
  | .rptid .. => 0x11
  | .wrfile .. => 0x15
  | .illegal fc _ => fc

/-- The bytes of a request from index 2 to the checksum (R73 to R77). -/
def Instr.payload : Instr → List Byte
  | .rdcoil start qty r => hi start :: lo start :: hi qty :: lo qty :: r
  | .rddisc start qty r => hi start :: lo start :: hi qty :: lo qty :: r
  | .rdhold start qty r => hi start :: lo start :: hi qty :: lo qty :: r
  | .rdinp start qty r => hi start :: lo start :: hi qty :: lo qty :: r
  | .wrcoil start onoff ignored r => hi start :: lo start :: onoff :: ignored :: r
  | .wrreg start value r => hi start :: lo start :: hi value :: lo value :: r
  | .wrmcoil start qty bytecnt data => hi start :: lo start :: hi qty :: lo qty :: bytecnt :: data
  | .wrmreg start qty bytecnt data => hi start :: lo start :: hi qty :: lo qty :: bytecnt :: data
  | .rptid r => r
  | .wrfile dlen reftype fileno recno reclen data =>
    dlen :: reftype :: hi fileno :: lo fileno :: hi recno :: lo recno :: hi reclen :: lo reclen :: data
  | .illegal _ r => r

/-- A frame body with its two checksum bytes appended (R70, R122). -/
def withChecksum (body : List Byte) : List Byte := body ++ checksumBytes body

/-- The request frame of an instruction for the device at address `id` (R70). -/
def encode (id : Byte) (i : Instr) : List Byte := withChecksum (id :: i.functionCode :: i.payload)

/-- A byte list filled up with zero bytes to at least `n` bytes. -/
def padTo (n : Nat) (bs : List Byte) : List Byte := bs ++ List.replicate (n - bs.length) 0

/-- The bytes of a number whose bits are numbered from the least significant bit of the first byte, `k` of them. -/
def lowBytes : Nat → Nat → List Byte
  | 0, _ => []
  | k + 1, w => BitVec.ofNat 8 w :: lowBytes k (w / 256)

/-- The request frame whose bytes from index 1 on (the opcode byte of spec/opcode_table.json, `opcode_byte_index` 1)
are the `nbits` bits of `w` and then zeros, up to the length the request needs (R82) and at most 140 bytes, with the
address byte `id` before them and the right checksum after them (log 4). -/
def tableFrame (id : Byte) (nbits w : Nat) : List Byte :=
  let given := id :: lowBytes ((nbits + 7) / 8) w
  let header := padTo (minLength (byteAt given 1) - 2) given
  withChecksum ((padTo (needLength header - 2) header).take (maxFrame - 2))

/-- The instruction the decoder reads from a row of the opcode table; the address byte plays no part. -/
def decodeTableWord (nbits w : Nat) : Option Instr :=
  match decode (tableFrame 1 nbits w) with
  | .instr i => some i
  | .rejected _ => none

end Sys2Proof
end

