-- ==== Sys2Proof/Config.lean ====
section
/-! DEFINITION. What one implementation fixes and the source does not give (00_scope.md R10): the parameters of the
engine, held in `Params`, and the free values (44_register_functions.md R181 b, 10_state.md R39, R43). The constants without a body are
uninterpreted: no proof can see what they are, so a claim about them is a claim for every value. -/

namespace Sys2Proof

/-- `ID_STRING` (R10, R200): a list of at most 134 bytes, so that the response of function 17 fits 140 bytes. -/
structure IdString where
  /-- the `L_ID` bytes of the identification string -/
  bytes : List Byte
  /-- `L_ID` ≤ 134 (R200) -/
  bound : bytes.length ≤ 134
deriving DecidableEq, Repr

/-- The identification string made of the first 134 bytes of a list (log 9). -/
def IdString.ofList (l : List Byte) : IdString := ⟨l.take 134, by simp⟩

/-- The parameters of 00_scope.md R10 that are fixed for one device and that no rule writes. `SLAVE_ID` stands in
the engine state (R29) and the declared counts in the register map (R42). -/
structure Params where
  /-- `NV_CAPACITY`: `nvstore_capacity()`, the bytes of the NonVolatileStore -/
  nvCapacity : Nat
  /-- `ID_STRING` of function 17 -/
  idString : IdString
  /-- the first byte of `ID_TRAILER` -/
  idTrailer0 : Byte
  /-- the second byte of `ID_TRAILER` -/
  idTrailer1 : Byte
  /-- `WD_TIMEOUT`: the offset added to `now` for the watchdog deadline -/
  wdTimeout : Nat
deriving DecidableEq, Repr

/-- `NV_CAPACITY` of the device at reset: uninterpreted (R10: "value open"; log 9). -/
opaque Config.nvCapacity : Nat

/-- The bytes of `ID_STRING` of the device at reset: uninterpreted (R200: content and length not given; log 9). -/
opaque Config.idString : List Byte

/-- The first byte of `ID_TRAILER` of the device at reset: uninterpreted (R200; log 9). -/
opaque Config.idTrailer0 : Byte

/-- The second byte of `ID_TRAILER` of the device at reset: uninterpreted (R200; log 9). -/
opaque Config.idTrailer1 : Byte

/-- `WD_TIMEOUT` of the device at reset: uninterpreted (R10, R33; log 9). -/
opaque Config.wdTimeout : Nat

/-- The free words of R181 (b): the value that a register read at or beyond the declared count yields, one
independent value for each index (log 15). -/
opaque Config.freeWord : Nat → Word

/-- The bytes of the RawFrame after power-up: unspecified, `any value` (R43, U5), one independent value for each index
(log 6). -/
opaque Config.frameByte : Nat → Byte

/-- The 140 unspecified bytes of the RawFrame after the power-up that takes the free values from `k` on (log 6). -/
def Config.frameBytes (k : Nat) : List Byte := (List.range 140).map fun i => Config.frameByte (k + i)

/-- The content of the NonVolatileStore before anything is written: it "is not given a reset value" (R39), one
independent value for each byte address (log 10). -/
opaque Config.nvByte : Nat → Byte

/-- The parameters of the device at reset. -/
def Config.params : Params where
  nvCapacity := Config.nvCapacity
  idString := IdString.ofList Config.idString
  idTrailer0 := Config.idTrailer0
  idTrailer1 := Config.idTrailer1
  wdTimeout := Config.wdTimeout

end Sys2Proof
end

