-- ==== Sys2Proof/Machine/State.lean ====
section
/-! DEFINITION. The state of the machine as plain data (10_state.md), the reasons a step can stop, and the state
right after reset (10_state.md R43). -/

namespace Sys2Proof.Machine

/-- The register map, "supplied by the application layer at each `Poll` call (not owned by the core)" (R20 a, R21):
four disjoint components, and the two declared counts passed with them (R42, R60). -/
structure RegisterMap where
  /-- `DI`, the discrete-input word; bit `i` is input number `i` (R22) -/
  di : Word
  /-- `CO`, the coil word; bit `i` is coil number `i` (R23) -/
  co : Word
  /-- `IR`, the input-register array as the application passes it (R24) -/
  ir : List Word
  /-- `IN_LEN`, the declared count of `IR` (R10, R42) -/
  inLen : Nat
  /-- `HR`, the holding-register array as the application passes it (R25) -/
  hr : List Word
  /-- `HOLD_LEN`, the declared count of `HR` (R10, R42) -/
  holdLen : Nat
deriving DecidableEq, Repr

/-- `cmd`, the CommandRecord (R38); `fc` = 0 is the sentinel "none". -/
structure CommandRecord where
  /-- the function code -/
  fc : Byte
  /-- the starting address -/
  addr : Long
  /-- the element or byte count -/
  count : Long
deriving DecidableEq, Repr

/-- The exception codes, exactly the three members 1, 2, 3 (R231, R232). -/
inductive ExcCode where
  /-- 1, illegal function (R233) -/
  | illegalFunction
  /-- 2, illegal data address (R234) -/
  | illegalDataAddress
  /-- 3, illegal data value (R235) -/
  | illegalDataValue
deriving DecidableEq, Repr

/-- The `Outcome` of a Poll, the block's only status output (R17, R40). -/
inductive PollOutcome where
  /-- `RxCount()` was 0 -/
  | noFrame
  /-- bytes are waiting and the silence time has not run out -/
  | pending
  /-- more than 140 bytes were drained -/
  | captureOverflow
  /-- `F[0]` differs from `SLAVE_ID` -/
  | notAddressed
  /-- frame shorter than 4 bytes, or checksum mismatch -/
  | noReply
  /-- validation failed with this code -/
  | exception (c : ExcCode)
  /-- an accepted read would need a response longer than 140 bytes -/
  | respOverflow
  /-- request executed, `m` response bytes sent, checksum included -/
  | done (m : Nat)
deriving DecidableEq, Repr

/-- What the outside world does before and during one Poll (R66, R107; log 2). -/
structure PollInput where
  /-- whether power was cycled since the Poll before, "the only reset" (R43, R260); it comes first (log 28) -/
  powerUp : Bool
  /-- the clock value of the Poll (R57) -/
  now : Time
  /-- the bytes the transport appends before the Poll, oldest first (R41) -/
  arrived : List Byte
  /-- `late`: the bytes the transport appends after the Poll has read the count (R107) -/
  late : List Byte
  /-- the register map the application passes, or none where it leaves the map as it is (R66) -/
  map : Option RegisterMap
deriving DecidableEq, Repr

/-- The NonVolatileStore (R39) as a list of (byte address, byte) pairs, addresses strictly rising. A byte that is not
listed was never written while the model ran: its content persists from before and is the free value `Config.nvByte`
(R39, R43, R263; log 10). -/
abbrev Memory := List Host.Cell

/-- The canonical form of a memory: addresses strictly rising, an entry for each byte written. What an unlisted byte
reads as is uninterpreted, so no entry can be seen to equal it and none is removed (log 10). -/
abbrev Memory.wf (m : Memory) : Prop := m.Pairwise fun x y => x.1 < y.1

/-- The state of the machine between two Polls (R20): register map (a), engine state (b), collaborator state (c),
and, held as data, the inputs and parameters (d). -/
structure State where
  /-- the register map the next Poll is called with (R21 to R25) -/
  map : RegisterMap
  /-- `SLAVE_ID` (R29) -/
  slaveId : Byte
  /-- `F`, the 140 bytes of the RawFrame (R30) -/
  buf : List Byte
  /-- `frame_len` (R30) -/
  frameLen : Nat
  /-- `last_count`, the last observed byte count (R31) -/
  lastCount : Nat
  /-- `deadline` of the silence detection (R32) -/
  deadline : Time
  /-- `wd_deadline`, written and never read (R33) -/
  wdDeadline : Time
  /-- `rx_cnt`, frames received (R34, R37) -/
  rxCnt : BitVec 16
  /-- `tx_cnt`, frames transmitted (R35, R37) -/
  txCnt : BitVec 16
  /-- `err_cnt`, validation errors (R36, R37) -/
  errCnt : BitVec 16
  /-- `cmd`, the command record (R38) -/
  cmd : CommandRecord
  /-- `NV`, the NonVolatileStore (R39) -/
  nv : Memory
  /-- the receive queue of ByteSource, oldest byte first (R41) -/
  rxq : List Byte
  /-- the transmit stream of ByteSink: the frames handed to `TxWrite`, oldest first (R41, R56) -/
  tx : List (List Byte)
  /-- the `Outcome` of the last Poll, none before the first (R40; log 14) -/
  outcome : Option PollOutcome
  /-- the clock value the next Poll samples (R42, R57) -/
  now : Time
  /-- the parameters of the device (R10) -/
  cfg : Params
  /-- the model's own: the index of the next free value, a word of R181 (b) or a byte of `F` at power-up (log 6, 15) -/
  freeIdx : Nat
  /-- the model's own: what the outside world does at the coming Polls, soonest first (log 2) -/
  schedule : List PollInput
deriving DecidableEq, Repr

/-- Why the machine stops. There is no reason: "No condition is fatal to the device; the engine is designed to never
halt regardless of malformed input" (R46; log 22). -/
inductive Fault
deriving DecidableEq, Repr

/-- Why a step has no meaning. -/
inductive Refusal where
  /-- Raised by the arm of `exec` of an instruction that has no meaning yet; safe. -/
  | notModelled (mnemonic : String)
  /-- Raised by `step` for a device configured with `SLAVE_ID` outside 1..247: "a model refuses it (it is not a state
  of this hardware)" (R11); safe. -/
  | slaveIdOutOfRange
  /-- Raised by `step` for a Poll whose declared counts exceed 255 or the arrays passed: "this spec does not define
  that configuration" (R273), treatment `refuse` (U11); safe. -/
  | declaredCountOutOfRange
deriving DecidableEq, Repr

/-- The register map that `State.reset` holds: the block does not reset it (R43), the application passes its own
(log 7). -/
def RegisterMap.reset : RegisterMap := { di := 0, co := 0, ir := [], inLen := 0, hr := [], holdLen := 0 }

/-- The machine right after its first power-up (R43, R260, R261). The counters, the timing state, `frame_len` and `cmd`
are R43's; the other values are named in the log (6 to 15). A power-up of a machine that has a history is
`State.powerUp`: it keeps what reset does not touch (R263). -/
def State.reset : State where
  map := RegisterMap.reset
  slaveId := 1
  buf := Config.frameBytes 0
  frameLen := 0
  lastCount := 0
  deadline := 0
  wdDeadline := 0
  rxCnt := 0
  txCnt := 0
  errCnt := 0
  cmd := { fc := 0, addr := 0, count := 0 }
  nv := []
  rxq := []
  tx := []
  outcome := none
  now := 0
  cfg := Config.params
  freeIdx := 140
  schedule := []

end Sys2Proof.Machine
end

