-- ==== Sys2Proof/Machine/Flags.lean ====
section
/-! DEFINITION. The status outputs. The block has no condition codes (10_state.md R40): what stands in their place are
the Outcome of the Poll (R40), the three transaction counters (R34 to R37) and the exception code byte (R232). -/

namespace Sys2Proof.Machine

/-- `rx_cnt` + 1, wrapping at 2^16 (R34, R37). -/
def State.countRx (s : State) : State := { s with rxCnt := s.rxCnt + 1 }

/-- `tx_cnt` + 1, wrapping at 2^16 (R35, R37). -/
def State.countTx (s : State) : State := { s with txCnt := s.txCnt + 1 }

/-- `err_cnt` + 1, wrapping at 2^16 (R36, R37). -/
def State.countErr (s : State) : State := { s with errCnt := s.errCnt + 1 }

/-- The Poll ends with outcome `o` (R17, R40). -/
def State.report (o : PollOutcome) (s : State) : State := { s with outcome := some o }

/-- The exception code byte on the wire (R232). -/
def ExcCode.toByte : ExcCode → Byte
  | .illegalFunction => 1
  | .illegalDataAddress => 2
  | .illegalDataValue => 3

end Sys2Proof.Machine
end

