-- ==== Sys2Proof/Machine/Ops.lean ====
section
/-! DEFINITION. The named operations over the NonVolatileStore, the RawFrame, the register map and the collaborators,
and TAKING AN EXCEPTION as one operation (46_response_builder.md R216 to R219, 60_exceptions.md R242). There is no
return from an exception: "An exception ends the transaction; nothing is resumed" (R243). -/

namespace Sys2Proof.Machine

/-! ## NonVolatileStore (R39, R58) -/

/-- The byte that the memory lists at an address, none where nothing was written there. -/
def Memory.read : Memory → Nat → Option Byte
  | [], _ => none
  | (x, v) :: rest, a => if a = x then some v else Memory.read rest a

/-- `nvstore_read(addr) -> u8` (R58), in the interface and called by no rule: the byte last written, and the free byte
of that address where nothing was written (R39; log 10). -/
def Memory.nvstoreRead (m : Memory) (a : Nat) : Byte := (m.read a).getD (Config.nvByte a)

/-- `nvstore_write(addr, v)` (R58): at once, and it cannot fail. -/
def Memory.write : Memory → Nat → Byte → Memory
  | [], a, v => [(a, v)]
  | (x, w) :: rest, a, v =>
    if a < x then (a, v) :: (x, w) :: rest
    else if a = x then (a, v) :: rest
    else (x, w) :: Memory.write rest a v

/-- The bytes `bs` written to ascending addresses from `a` on, in list order, no byte swap (R54, R58). -/
def Memory.writeBytes : Memory → Nat → List Byte → Memory
  | m, _, [] => m
  | m, a, b :: bs => Memory.writeBytes (m.write a b) (a + 1) bs

/-! ## Bits and registers of the register map (R16) -/

/-- `W[i] <- b` on a 16-bit word (R16). -/
def setBit (w : Word) (i : Nat) (b : Bool) : Word :=
  if b then w ||| BitVec.twoPow 16 i else w &&& ~~~(BitVec.twoPow 16 i)

/-- The value a read of element `i` yields: the element, where `i` is below the declared count, and else the free
word `free` (R181 b). -/
def readRegister (arr : List Word) (len i : Nat) (free : Word) : Word :=
  if i < len then arr.getD i free else free

/-- A write of element `i`: it happens where `i` is below the declared count and is suppressed elsewhere (R181 a). -/
def writeRegister (arr : List Word) (len i : Nat) (v : Word) : List Word :=
  if i < len then arr.set i v else arr

/-! ## RawFrame (R15, R30) -/

/-- The bytes `bs` written over `f` from index `i` on. -/
def overwrite (f : List Byte) (i : Nat) (bs : List Byte) : List Byte :=
  f.take i ++ bs ++ f.drop (i + bs.length)

/-- `F[i ..] <- bs` (R15). -/
def State.writeF (i : Nat) (bs : List Byte) (s : State) : State := { s with buf := overwrite s.buf i bs }

/-- `frame_len <- n` (R30). -/
def State.setFrameLen (n : Nat) (s : State) : State := { s with frameLen := n }

/-- The captured frame `F[0 .. frame_len - 1]` (R15, R30). -/
def State.frame (s : State) : List Byte := s.buf.take s.frameLen

/-! ## Engine state -/

/-- `cmd <- {fc, addr, count}`, the fields zero-extended or cut to their widths (R38, R222). -/
def State.setCmd (fc : Byte) (addr count : Nat) (s : State) : State :=
  { s with cmd := { fc := fc, addr := BitVec.ofNat 32 addr, count := BitVec.ofNat 32 count } }

/-- `last_command()` (R60): reading `cmd` has no side effect (R38). -/
def State.lastCommand (s : State) : CommandRecord := s.cmd

/-- The start of dispatch: `wd_deadline <- (now + WD_TIMEOUT) mod 2^64` (R100, R110). -/
def State.armWatchdog (s : State) : State := { s with wdDeadline := s.now + BitVec.ofNat 64 s.cfg.wdTimeout }

/-- `CO <- w` (R23). -/
def State.setCo (w : Word) (s : State) : State := { s with map := { s.map with co := w } }

/-- `HR <- ws` (R25). -/
def State.setHr (ws : List Word) (s : State) : State := { s with map := { s.map with hr := ws } }

/-- `NV <- m` (R39). -/
def State.setNv (m : Memory) (s : State) : State := { s with nv := m }

/-- The next `n` free words are used up (log 15). -/
def State.drawFree (n : Nat) (s : State) : State := { s with freeIdx := s.freeIdx + n }

/-- `TxWrite(bs)` (R56): the sink takes a whole frame in one call. -/
def State.txWrite (bs : List Byte) (s : State) : State := { s with tx := s.tx ++ [bs] }

/-! ## Power-up, the only reset (R260) -/

/-- Power-up (R43, R260, R261): the assembler is idle, the counters, the deadlines, `frame_len` and `cmd` are 0, `F` is
unspecified (log 6), no Poll has returned (log 14). The register map, the NonVolatileStore and the receive queue are
"state that reset does not touch" (R263); SLAVE_ID and the parameters stay the configured ones (R43; log 28). -/
def State.powerUp (s : State) : State :=
  { s with
    buf := Config.frameBytes s.freeIdx, freeIdx := s.freeIdx + 140
    frameLen := 0, lastCount := 0, deadline := 0, wdDeadline := 0
    rxCnt := 0, txCnt := 0, errCnt := 0, cmd := { fc := 0, addr := 0, count := 0 }, outcome := none }

/-! ## ResponseBuilder (R216 to R219) -/

/-- `Send()` (R218, R219): append the checksum of `F[0 .. frame_len - 1]`, hand the frame to ByteSink, set
`frame_len` to 0 and count the frame. -/
def State.send (s : State) : State :=
  let appended := s.writeF s.frameLen (checksumBytes s.frame)
  ((appended.txWrite (appended.buf.take (s.frameLen + 2))).setFrameLen 0).countTx

/-- `BuildException(code)` (R216): `F[1] <- F[1] | 0x80`, `F[2] <- code`, `frame_len <- 3`. -/
def State.buildException (c : ExcCode) (s : State) : State :=
  (s.writeF 1 [byteAt s.buf 1 ||| 0x80, c.toByte]).setFrameLen 3

/-- Taking exception `c` (R100, R242): count the error, build the exception frame, send it, end the Poll. -/
def State.takeException (c : ExcCode) (s : State) : State :=
  ((s.countErr.buildException c).send).report (.exception c)

/-- Stage 5 of an accepted request (R100): `m <- frame_len + 2`, `Send()`, outcome `Done(m)`. -/
def State.respond (s : State) : State := s.send.report (.done (s.frameLen + 2))

/-- A frame that ends without a response and counts an error (R100, R132, R133, R182). -/
def State.dropWithError (o : PollOutcome) (s : State) : State := (s.countErr.setFrameLen 0).report o

end Sys2Proof.Machine
end

