-- ==== Sys2Proof/Machine/Assembler.lean ====
section
/-! DEFINITION. The FrameAssembler (40_poll_and_frame_assembler.md R101 to R107, R113): the silence-timeout detector
and the drain, the inputs of one Poll, and how a frame comes to stand where the next Poll drains it. -/

namespace Sys2Proof.Machine

/-- Stage 1 either ends the Poll or leaves a captured frame in `F`. -/
inductive Assembled where
  /-- the Poll ends here -/
  | returned (s : State)
  /-- the captured frame stands in `F[0 .. frame_len - 1]` -/
  | captured (s : State)
deriving DecidableEq, Repr

/-- Bytes that arrive after the count was read and are not drained stay in the queue (R65, R107; log 5). -/
def State.enqueue (bs : List Byte) (s : State) : State := { s with rxq := s.rxq ++ bs }

/-- Step 3 (R103): the new count is recorded and the silence deadline set to `(now + T35) mod 2^64`. -/
def State.recordCount (s : State) : State :=
  { s with lastCount := s.rxq.length, deadline := s.now + BitVec.ofNat 64 t35 }

/-- The drain of step 5 (R105): pop until the queue is empty, late bytes included; the first 140 bytes go to `F`;
`last_count` is cleared; the frame is counted. -/
def State.drain (late : List Byte) (s : State) : State :=
  ({ s with
      lastCount := 0
      rxq := []
      buf := overwrite s.buf 0 ((s.rxq ++ late).take maxFrame) }).countRx

/-- Stage 1 of the Poll (R100 to R106). -/
def assemble (late : List Byte) (s : State) : Assembled :=
  let c := s.rxq.length
  if c = 0 then .returned ((s.enqueue late).report .noFrame)
  else if c ≠ s.lastCount then .returned ((s.recordCount.enqueue late).report .pending)
  else if s.now < s.deadline then .returned ((s.enqueue late).report .pending)
  else if maxFrame < (s.rxq ++ late).length then .returned ((s.drain late).dropWithError .captureOverflow)
  else .captured ((s.drain late).setFrameLen (s.rxq ++ late).length)

/-- What the outside world does before a Poll: where power was cycled, the machine powers up; then time, received bytes
and the application's register map are put in place (R66, R260; log 2, 28). -/
def State.applyInput (p : PollInput) (s : State) : State :=
  let s := if p.powerUp then s.powerUp else s
  { s with now := p.now, rxq := s.rxq ++ p.arrived, map := p.map.getD s.map }

/-- The outside world's part of the next Poll, and beside it the bytes that arrive during the Poll. With nothing
scheduled the inputs stay as they are (log 2). -/
def State.beginPoll (s : State) : State × List Byte :=
  match s.schedule with
  | [] => (s, [])
  | p :: rest => ({ s.applyInput p with schedule := rest }, p.late)

/-- What the spec refuses before a Poll (R11, R273; log 16). -/
def State.misconfigured (s : State) : Option Refusal :=
  if s.slaveId.toNat = 0 ∨ 247 < s.slaveId.toNat then some .slaveIdOutOfRange
  else if 255 < s.map.inLen ∨ 255 < s.map.holdLen ∨ s.map.ir.length < s.map.inLen ∨ s.map.hr.length < s.map.holdLen
    then some .declaredCountOutOfRange
  else none

/-- The frame `f` stands in the receive queue, counted and silent for `T35`, so that the very next Poll drains
exactly it (R105; log 3). -/
def State.placeFrame (f : List Byte) (s : State) : State :=
  { s with rxq := f, lastCount := f.length, deadline := s.now, schedule := [] }

end Sys2Proof.Machine
end

