-- ==== Sys2Proof/Machine/Validator.lean ====
section
/-! DEFINITION. The value, range and data-length checks of the RequestValidator, step 4 (42_request_validator.md R130,
R136 to R147), one per kind of request, each in the order of R130: the first defect found gives the code (R148). The
earlier steps are the decoder's. A check reads its operands and writes no state (R131). -/

namespace Sys2Proof.Machine

/-- Functions 1, 2 and 15 (R136): quantity first, then the range. -/
def checkBitRange (start qty : Word) : Option ExcCode :=
  if nBits < qty.toNat then some .illegalDataValue
  else if nBits - 1 < start.toNat ∨ nBits < start.toNat + qty.toNat then some .illegalDataAddress
  else none

/-- Function 5 (R138): the on/off byte first, then the address. -/
def checkCoilWrite (start : Word) (onoff : Byte) : Option ExcCode :=
  if onoff ≠ 0x00 ∧ onoff ≠ 0xFF then some .illegalDataValue
  else if nBits - 1 < start.toNat then some .illegalDataAddress
  else none

/-- Functions 3, 4, 6 and 16 (R139 to R143): the end address, truncated to 8 bits, against the declared count. -/
def checkEndAddress (declared start qty : Nat) : Option ExcCode :=
  if declared < end8 start qty then some .illegalDataAddress else none

/-- Function 21 (R145): reference type, file number, byte range, in that order. -/
def checkFileRange (capacity : Nat) (reftype : Byte) (fileno recno reclen : Word) : Option ExcCode :=
  if reftype ≠ fileRefType then some .illegalDataAddress
  else if fileno ≠ fileNumber then some .illegalDataAddress
  else if capacity < doubled recno + doubled reclen then some .illegalDataAddress
  else none

/-- Functions 15, 16 and 21 (R147): the data bytes the frame holds against those the handler reads. -/
def checkDataLength (present needed : Nat) : Option ExcCode :=
  if present < needed then some .illegalDataValue else none

end Sys2Proof.Machine
end

