-- ==== Sys2Proof/Machine/BitFunctions.lean ====
section
/-! DEFINITION. The meanings of the bit functions (43_bit_functions.md): RDCOIL, RDDISC, WRCOIL, WRMCOIL. -/

namespace Sys2Proof.Machine

/-- Byte `j` of `PackBits(W, start, qty)` (R165): bit `i` is `W[start + 8j + i]` while `8j + i < qty`, and 0 beyond. -/
def packByte (w : Word) (start qty j : Nat) : Byte :=
  (List.range 8).foldl
    (fun d i => if 8 * j + i < qty ∧ w.getLsbD (start + (8 * j + i)) then d ||| BitVec.twoPow 8 i else d) 0

/-- `PackBits(W, start, qty)` (R165): the data bytes of a bit read, `ceil(qty/8)` of them. -/
def packBits (w : Word) (start qty : Nat) : List Byte := (List.range (ceilDiv8 qty)).map (packByte w start qty)

/-- The coil word after the loop of R164: `CO[start + k] <- F[7 + (k div 8)][k mod 8]` for `k` below `qty`. -/
def writeCoils (co : Word) (start qty : Nat) (data : List Byte) : Word :=
  (List.range qty).foldl (fun w k => setBit w (start + k) ((byteAt data (k / 8)).getLsbD (k % 8))) co

/-- The handler body that functions 1 and 2 share (R161, R162), on the word `w`. -/
def readBits (fc : Byte) (w start qty : Word) (s : State) : State :=
  let d := packBits w start.toNat qty.toNat
  (((s.writeF 2 (BitVec.ofNat 8 (ceilDiv8 qty.toNat) :: d)).setFrameLen (3 + ceilDiv8 qty.toNat)).setCmd
    fc start.toNat qty.toNat).respond

/-- RDCOIL, function 1 (R161). -/
def execRdcoil (start qty : Word) (_surplus : List Byte) (s : State) : Host.Outcome State Fault Refusal :=
  match checkBitRange start qty with
  | some c => .next (s.takeException c)
  | none => .next (readBits 1 s.map.co start qty s.armWatchdog)

/-- RDDISC, function 2 (R162). -/
def execRddisc (start qty : Word) (_surplus : List Byte) (s : State) : Host.Outcome State Fault Refusal :=
  match checkBitRange start qty with
  | some c => .next (s.takeException c)
  | none => .next (readBits 2 s.map.di start qty s.armWatchdog)

/-- WRCOIL, function 5 (R163): 0xFF sets the coil, 0x00 clears it; the first six bytes are echoed. -/
def execWrcoil (start : Word) (onoff _ignored : Byte) (_surplus : List Byte) (s : State) :
    Host.Outcome State Fault Refusal :=
  match checkCoilWrite start onoff with
  | some c => .next (s.takeException c)
  | none => .next ((((s.armWatchdog.setCo (setBit s.map.co start.toNat (onoff == 0xFF))).setFrameLen 6).setCmd
      5 start.toNat 1).respond)

/-- WRMCOIL, function 15 (R164). -/
def execWrmcoil (start qty : Word) (_bytecnt : Byte) (data : List Byte) (s : State) :
    Host.Outcome State Fault Refusal :=
  match (checkBitRange start qty).or (checkDataLength data.length (ceilDiv8 qty.toNat)) with
  | some c => .next (s.takeException c)
  | none => .next ((((s.armWatchdog.setCo (writeCoils s.map.co start.toNat qty.toNat data)).setFrameLen 6).setCmd
      15 start.toNat qty.toNat).respond)

end Sys2Proof.Machine
end

