-- ==== Sys2Proof/Machine/IdAndFile.lean ====
section
/-! DEFINITION. The meanings of RPTID and WRFILE (45_slave_id_and_file_record.md) and of ILLEGAL (60_exceptions.md
R233). -/

namespace Sys2Proof.Machine

/-- RPTID, function 17 (R201): the identification string, then the two trailer bytes; no check (R144). -/
def execRptid (_surplus : List Byte) (s : State) : Host.Outcome State Fault Refusal :=
  let idLen := s.cfg.idString.bytes.length
  .next ((((s.armWatchdog.writeF 2 (s.cfg.idString.bytes ++ [s.cfg.idTrailer0, s.cfg.idTrailer1])).setFrameLen
    (4 + idLen)).setCmd 17 0 (idLen + 2)).respond)

/-- WRFILE, function 21 (R206): `bl` data bytes to the store from byte address `ba` on; `dlen` is echoed. -/
def execWrfile (_dlen reftype : Byte) (fileno recno reclen : Word) (data : List Byte) (s : State) :
    Host.Outcome State Fault Refusal :=
  match (checkFileRange s.cfg.nvCapacity reftype fileno recno reclen).or
      (checkDataLength data.length (doubled reclen)) with
  | some c => .next (s.takeException c)
  | none => .next ((((s.armWatchdog.setNv
      (s.nv.writeBytes (doubled recno) (data.take (doubled reclen)))).setFrameLen 3).setCmd
      21 (doubled recno) (doubled reclen)).respond)

/-- ILLEGAL, an unsupported function code (R84, R134, R233): exception 1, whatever else is wrong with the frame. -/
def execIllegal (_fc : Byte) (_payload : List Byte) (s : State) : Host.Outcome State Fault Refusal :=
  .next (s.takeException .illegalFunction)

end Sys2Proof.Machine
end

