-- ==== Sys2Proof/Machine/RegisterFunctions.lean ====
section
/-! DEFINITION. The meanings of the register functions (44_register_functions.md): RDHOLD, RDINP, WRREG, WRMREG. -/

namespace Sys2Proof.Machine

/-- The words that a read of `qty` registers from `start` yields (R183): word `k` is element `start + k`, and the
free word number `free + k` where that element is at or beyond the declared count (R181 b; log 15). -/
def readWords (arr : List Word) (len start qty free : Nat) : List Word :=
  (List.range qty).map fun k => readRegister arr len (start + k) (Config.freeWord (free + k))

/-- Words on the wire: high byte, then low byte (R51, R78). -/
def wordBytes (ws : List Word) : List Byte := ws.flatMap fun v => [hi v, lo v]

/-- The handler body that functions 3 and 4 share (R183, R184), on the array `arr` with declared count `len`; a
response longer than 140 bytes is not built (R182). -/
def readRegisters (fc : Byte) (arr : List Word) (len : Nat) (start qty : Word) (s : State) : State :=
  if maxFrame < 5 + 2 * qty.toNat then s.dropWithError .respOverflow
  else
    let ws := readWords arr len start.toNat qty.toNat s.freeIdx
    ((((s.drawFree qty.toNat).writeF 2 (BitVec.ofNat 8 (2 * qty.toNat) :: wordBytes ws)).setFrameLen
      (3 + 2 * qty.toNat)).setCmd fc start.toNat qty.toNat).respond

/-- The holding registers after the loop of R187: `HR[start + k] <- BE16(7 + 2k)` for `k` below `nw`, a write at or
beyond the declared count suppressed (R181 a). -/
def writeWords (arr : List Word) (len start nw : Nat) (data : List Byte) : List Word :=
  (List.range nw).foldl (fun hr k => writeRegister hr len (start + k) (be16 data (2 * k))) arr

/-- `written` of R187: how many of the `nw` words lie below the declared count. -/
def wordsWritten (len start nw : Nat) : Nat := (List.range nw).countP fun k => decide (start + k < len)

/-- RDHOLD, function 3 (R183). -/
def execRdhold (start qty : Word) (_surplus : List Byte) (s : State) : Host.Outcome State Fault Refusal :=
  match checkEndAddress s.map.holdLen start.toNat qty.toNat with
  | some c => .next (s.takeException c)
  | none => .next (readRegisters 3 s.map.hr s.map.holdLen start qty s.armWatchdog)

/-- RDINP, function 4 (R184). -/
def execRdinp (start qty : Word) (_surplus : List Byte) (s : State) : Host.Outcome State Fault Refusal :=
  match checkEndAddress s.map.inLen start.toNat qty.toNat with
  | some c => .next (s.takeException c)
  | none => .next (readRegisters 4 s.map.ir s.map.inLen start qty s.armWatchdog)

/-- WRREG, function 6 (R185); the end address is that of quantity 1 (R139). -/
def execWrreg (start value : Word) (_surplus : List Byte) (s : State) : Host.Outcome State Fault Refusal :=
  match checkEndAddress s.map.holdLen start.toNat 1 with
  | some c => .next (s.takeException c)
  | none => .next ((((s.armWatchdog.setHr (writeRegister s.map.hr s.map.holdLen start.toNat value)).setFrameLen
      6).setCmd 6 start.toNat 1).respond)

/-- WRMREG, function 16 (R187): the range check on the 16-bit quantity (R142), the data length on the signed low
byte (R147). -/
def execWrmreg (start qty : Word) (_bytecnt : Byte) (data : List Byte) (s : State) :
    Host.Outcome State Fault Refusal :=
  match (checkEndAddress s.map.holdLen start.toNat qty.toNat).or (checkDataLength data.length (2 * wordCount qty)) with
  | some c => .next (s.takeException c)
  | none => .next ((((s.armWatchdog.setHr
      (writeWords s.map.hr s.map.holdLen start.toNat (wordCount qty) data)).setFrameLen 6).setCmd
      16 start.toNat (wordsWritten s.map.holdLen start.toNat (wordCount qty))).respond)

end Sys2Proof.Machine
end

