-- ==== Sys2Proof/Machine/Dispatch.lean ====
section
/-! DEFINITION. The dispatch on the function code (40_poll_and_frame_assembler.md R111): one arm per instruction. -/

namespace Sys2Proof.Machine

def exec (i : Instr) (s : State) : Host.Outcome State Fault Refusal :=
  match i with
  | .rdcoil start qty surplus => Sys2Proof.Machine.execRdcoil start qty surplus s
  | .rddisc start qty surplus => Sys2Proof.Machine.execRddisc start qty surplus s
  | .rdhold start qty surplus => Sys2Proof.Machine.execRdhold start qty surplus s
  | .rdinp start qty surplus => Sys2Proof.Machine.execRdinp start qty surplus s
  | .wrcoil start onoff ignored surplus => Sys2Proof.Machine.execWrcoil start onoff ignored surplus s
  | .wrreg start value surplus => Sys2Proof.Machine.execWrreg start value surplus s
  | .wrmcoil start qty bytecnt data => Sys2Proof.Machine.execWrmcoil start qty bytecnt data s
  | .wrmreg start qty bytecnt data => Sys2Proof.Machine.execWrmreg start qty bytecnt data s
  | .rptid surplus => Sys2Proof.Machine.execRptid surplus s
  | .wrfile dlen reftype fileno recno reclen data => Sys2Proof.Machine.execWrfile dlen reftype fileno recno reclen data s
  | .illegal fc payload => Sys2Proof.Machine.execIllegal fc payload s

end Sys2Proof.Machine
end

