-- ==== Sys2Proof/Machine/Poll.lean ====
section
/-! DEFINITION. The Poll operation (40_poll_and_frame_assembler.md R100): assemble, address filter, validate and
decode, dispatch, respond, run to completion in one step (R63). -/

namespace Sys2Proof.Machine

/-- Stages 2 to 5 on a captured frame (R100): address filter (R108), the decoder's rejections (R132, R133, R135), or
the meaning of the instruction. -/
def serve (s : State) : Host.Outcome State Fault Refusal :=
  if byteAt s.frame 0 ≠ s.slaveId then .next ((s.setFrameLen 0).report .notAddressed)
  else match decode s.frame with
    | .rejected .shortFrame => .next (s.dropWithError .noReply)
    | .rejected .badChecksum => .next (s.dropWithError .noReply)
    | .rejected (.shortForFunction _) => .next (s.takeException .illegalDataValue)
    | .instr i => exec i s

/-- `Poll` (R100), with the bytes that arrive while it runs. -/
def poll (late : List Byte) (s : State) : Host.Outcome State Fault Refusal :=
  match assemble late s with
  | .returned t => .next t
  | .captured t => serve t

/-- One step: the outside world's part of the next Poll, then the Poll, unless the configuration is outside the spec. -/
def pollStep (s : State) : Host.Outcome State Fault Refusal :=
  match s.beginPoll.1.misconfigured with
  | some r => .refused r
  | none => poll s.beginPoll.2 s.beginPoll.1

end Sys2Proof.Machine
end

