-- ==== Sys2Proof/Machine/Step.lean ====
section
/-! DEFINITION. One step of the machine is one Poll (00_scope.md R8, 40_poll_and_frame_assembler.md R100; log 1). -/

namespace Sys2Proof.Machine

/-- One step: one Poll. -/
def step (s : State) : Host.Outcome State Fault Refusal := pollStep s

/-- The state in which the next step drains and runs the request of an opcode-table word (log 3, 4). -/
def State.withFetchWord (s : State) (nbits w : Nat) : State := s.placeFrame (tableFrame s.slaveId nbits w)

end Sys2Proof.Machine
end

