-- ==== Sys2Proof/Safety.lean ====
section
/-! DEFINITION. What claims about runs are stated in: the invariant of the machine, when a Poll drains a frame, the
state a request is served in, and the states that an answered request, an exception and a dropped frame lead to. -/

namespace Sys2Proof.Machine

/-! ## The Poll that the next step makes -/

/-- The state at the entry of the next Poll: the outside world's part of it is done (log 2). -/
def State.polled (s : State) : State := s.beginPoll.1

/-- Power was cycled before the next Poll (R260; log 28). -/
def State.powersUp (s : State) : Bool :=
  match s.schedule with
  | [] => false
  | p :: _ => p.powerUp

/-- `late`, the bytes that arrive while the next Poll runs (R107). -/
def State.lateBytes (s : State) : List Byte := s.beginPoll.2

/-- The queue at the entry of the next Poll followed by the late bytes: what a drain takes (R105, R107). -/
def State.taken (s : State) : List Byte := s.polled.rxq ++ s.lateBytes

/-- The configuration of the next Poll is one the spec defines (R11, R273). -/
def State.Configured (s : State) : Prop := s.polled.misconfigured = none

/-- The next Poll sees a byte count that differs from the last one observed (R103). -/
structure State.ObservesChange (s : State) : Prop where
  configured : s.Configured
  waiting : s.polled.rxq ≠ []
  changed : s.polled.rxq.length ≠ s.polled.lastCount

/-- The next Poll drains the queue: the count is not 0, it is stable, and the deadline has passed (R105). -/
structure State.Drains (s : State) : Prop where
  configured : s.Configured
  waiting : s.polled.rxq ≠ []
  stable : s.polled.rxq.length = s.polled.lastCount
  silent : s.polled.deadline ≤ s.polled.now

/-- The next Poll drains a frame that fits the RawFrame and carries this device's address (R106, R108). -/
structure State.ServesFrame (s : State) : Prop where
  drains : s.Drains
  fits : s.taken.length ≤ maxFrame
  addressed : byteAt s.taken 0 = s.slaveId

/-- The state after the drain, the captured frame in `F[0 .. frame_len - 1]` (R105). -/
def State.capture (s : State) : State := (s.polled.drain s.lateBytes).setFrameLen s.taken.length

/-! ## How a request ends -/

/-- The state `s` after an accepted request was answered with the response body `body` (R100 stages 4 and 5, R218,
R219) and `cmd` written (R221), before any effect on the register map or the store; `b` is what `F` then holds. -/
def State.answered (s : State) (body : List Byte) (cmd : CommandRecord) (b : List Byte) : State :=
  { s with
    buf := b, frameLen := 0, cmd := cmd, txCnt := s.txCnt + 1, tx := s.tx ++ [withChecksum body]
    wdDeadline := s.now + BitVec.ofNat 64 s.cfg.wdTimeout, outcome := some (.done (body.length + 2)) }

/-- The state `s` after exception `c` was taken (R216 to R219, R242); `b` is what `F` then holds. -/
def State.excepted (s : State) (c : ExcCode) (b : List Byte) : State :=
  { s with
    buf := b, frameLen := 0, errCnt := s.errCnt + 1, txCnt := s.txCnt + 1
    tx := s.tx ++ [withChecksum [byteAt s.buf 0, byteAt s.buf 1 ||| 0x80, c.toByte]]
    outcome := some (.exception c) }

/-- `t` is `s` after an accepted request was answered with `body` and `cmd`: nothing else changed but the bytes of `F`,
which still begins with the body. -/
def State.Answers (s : State) (body : List Byte) (cmd : CommandRecord) (t : State) : Prop :=
  ∃ b, b.length = maxFrame ∧ b.take body.length = body ∧ t = s.answered body cmd b

/-- `t` is `s` after exception `c` was taken: nothing else changed but the bytes of `F`. -/
def State.Excepts (s : State) (c : ExcCode) (t : State) : Prop :=
  ∃ b, b.length = maxFrame ∧ t = s.excepted c b

/-- The state `s` after its frame ended without a response and without a counted error (R108). -/
def State.ignored (s : State) (o : PollOutcome) : State := { s with frameLen := 0, outcome := some o }

/-- The state `s` after its frame ended without a response and with a counted error (R106, R132, R133, R182). -/
def State.dropped (s : State) (o : PollOutcome) : State :=
  { s with frameLen := 0, errCnt := s.errCnt + 1, outcome := some o }

/-! ## The validator as R130 writes it -/

/-- `Validate(F, n, IN_LEN, HOLD_LEN, NV_CAPACITY)` of R130, line by line on the captured bytes `f`: 0, an exception
code 1, 2, 3, or `NO_REPLY` = 255. The machine does not use it (its decoder and its meanings make the same checks);
a claim compares the two. -/
def rule130 (f : List Byte) (inLen holdLen capacity : Nat) : Nat :=
  let n := f.length
  let fc := (byteAt f 1).toNat
  let start := (be16 f 2).toNat
  let qty := (be16 f 4).toNat
  if n < 4 then 255
  else if verify f = false then 255
  else if fc ∉ [1, 2, 3, 4, 5, 6, 15, 16, 17, 21] then 1
  else if n < (if fc ∈ [1, 2, 3, 4, 5, 6] then 8 else if fc ∈ [15, 16] then 9 else if fc = 17 then 4 else 12) then 3
  else if fc ∈ [1, 2, 15] then
    if qty > 16 then 3
    else if start > 15 ∨ start + qty > 16 then 2
    else if fc = 15 ∧ n < 9 + (qty + 7) / 8 then 3
    else 0
  else if fc = 5 then
    if byteAt f 4 ≠ 0x00 ∧ byteAt f 4 ≠ 0xFF then 3
    else if start > 15 then 2
    else 0
  else if fc = 6 then if (start + 1) % 256 > holdLen then 2 else 0
  else if fc = 3 then if (start + qty) % 256 > holdLen then 2 else 0
  else if fc = 4 then if (start + qty) % 256 > inLen then 2 else 0
  else if fc = 16 then
    if (start + qty) % 256 > holdLen then 2
    else if n < 9 + 2 * (if (byteAt f 5).toNat < 128 then (byteAt f 5).toNat else 0) then 3
    else 0
  else if fc = 21 then
    if byteAt f 3 ≠ 6 then 2
    else if be16 f 4 ≠ 1 then 2
    else if 2 * (be16 f 6).toNat + 2 * (be16 f 8).toNat > capacity then 2
    else if n < 12 + 2 * (be16 f 8).toNat then 3
    else 0
  else 0

/-! ## The invariant -/

/-- A frame that this device may send (R70, R215, R218): 5 to 140 bytes, its own address first, a checksum that
verifies. -/
structure GoodFrame (id : Byte) (f : List Byte) : Prop where
  atLeast : 5 ≤ f.length
  atMost : f.length ≤ maxFrame
  address : byteAt f 0 = id
  verifies : verify f = true

/-- What holds of the machine between two Polls: the RawFrame has its 140 bytes and `frame_len` is 0 (R30); the
recorded count never exceeds the queue (R113: nothing else consumes); the store is in canonical form and holds no byte
at or above `NV_CAPACITY` (R46); every frame ever sent is a good one (R70, R215, R218). -/
structure State.Inv (s : State) : Prop where
  bufLength : s.buf.length = maxFrame
  frameLen : s.frameLen = 0
  counted : s.lastCount ≤ s.rxq.length
  nvWf : s.nv.wf
  nvBelow : ∀ c ∈ s.nv, c.1 < s.cfg.nvCapacity
  sent : ∀ f ∈ s.tx, GoodFrame s.slaveId f

end Sys2Proof.Machine
end

