-- ==== Sys2Proof/Certificates/Slice0/Obligations.lean ====
section
/-! DEFINITION. The statements for the provers, from the numbered rules of spec/. Where a statement is about every
state but could fail in states no run reaches, its premise is the part of the invariant (`State.Inv`) it
needs: the RawFrame has its 140 bytes. -/

open Sys2Proof Sys2Proof.Machine

/-! ## Encoding and checksum -/

/-- Decoding the encoding of a well-formed request gives the request back, for every address byte (R70, R73 to R77,
R83, R84). -/
def Obligations.DecodeOfEncodeReturnsTheRequest : Prop :=
  ∀ (id : Byte) (i : Instr), i.wellFormed = true → decode (encode id i) = .instr i

/-- Encoding what a frame decodes to gives the frame back, and a frame that fits the RawFrame decodes to a well-formed
request (the fields: R70, R73 to R77; the checksum: R123). That no bit of a frame is dropped is the model's choice (log
21, DESIGN CHOICE): `Instr` carries also the bytes no rule examines (R86) and the surplus bytes (R82), of which the spec
only says that they are ignored. -/
def Obligations.EncodeOfDecodeReturnsTheFrame : Prop :=
  ∀ (f : List Byte) (i : Instr), decode f = .instr i →
    encode (byteAt f 0) i = f ∧ (f.length ≤ 140 → i.wellFormed = true)

/-- Frames that the spec writes out decode to the requests it says they are: those of R161, R162, R166 (WRCOIL), R183,
R185, R188 (WRMREG), R201, R206 and R251. -/
def Obligations.FramesOfTheSpecDecodeAsWritten : Prop :=
  decode [0x01, 0x01, 0x00, 0x00, 0x00, 0x04, 0x3D, 0xC9] = .instr (.rdcoil 0 4 []) ∧
  decode [0x01, 0x02, 0x00, 0x03, 0x00, 0x05, 0x48, 0x09] = .instr (.rddisc 3 5 []) ∧
  decode [0x01, 0x03, 0x00, 0x06, 0x00, 0x02, 0x24, 0x0A] = .instr (.rdhold 6 2 []) ∧
  decode [0x01, 0x05, 0x00, 0x03, 0xFF, 0x5A, 0xFC, 0x01] = .instr (.wrcoil 3 0xFF 0x5A []) ∧
  decode [0x01, 0x06, 0x00, 0x02, 0x12, 0x34, 0x25, 0x7D] = .instr (.wrreg 2 0x1234 []) ∧
  decode [0x01, 0x10, 0x00, 0x00, 0x01, 0x02, 0x04, 0xAA, 0xAA, 0xBB, 0xBB, 0xD0, 0x14] =
    .instr (.wrmreg 0 0x0102 4 [0xAA, 0xAA, 0xBB, 0xBB]) ∧
  decode [0x01, 0x11, 0xC0, 0x2C] = .instr (.rptid []) ∧
  decode [0x01, 0x15, 0x0B, 0x06, 0x00, 0x01, 0x00, 0x01, 0x00, 0x02, 0xA1, 0xA2, 0xA3, 0xA4, 0xFD, 0xC3] =
    .instr (.wrfile 0x0B 6 1 1 2 [0xA1, 0xA2, 0xA3, 0xA4]) ∧
  decode [0x01, 0x83, 0x02, 0xC0, 0xF1] = .instr (.illegal 0x83 [0x02])

/-- The worked values of the checksum (R126): register, checksum value, and the eight shifts for the byte 01. -/
def Obligations.ChecksumWorkedValues : Prop :=
  (crcReg [] = 0xFFFF ∧ checksum [] = 0xFFFF ∧ checksumBytes [] = [0xFF, 0xFF]) ∧
  (crcReg [0x00] = 0x40BF ∧ checksum [0x00] = 0xBF40 ∧ checksumBytes [0x00] = [0xBF, 0x40]) ∧
  (crcReg [0x01] = 0x807E ∧ checksum [0x01] = 0x7E80 ∧ checksumBytes [0x01] = [0x7E, 0x80]) ∧
  (crcReg [0xFF] = 0x00FF ∧ checksum [0xFF] = 0xFF00 ∧ checksumBytes [0xFF] = [0xFF, 0x00]) ∧
  (crcReg [0x01, 0x03] = 0x2140 ∧ checksum [0x01, 0x03] = 0x4021 ∧ checksumBytes [0x01, 0x03] = [0x40, 0x21]) ∧
  (crcReg [0x01, 0x03, 0, 0, 0, 0x01] = 0x0A84 ∧ checksum [0x01, 0x03, 0, 0, 0, 0x01] = 0x840A ∧
    checksumBytes [0x01, 0x03, 0, 0, 0, 0x01] = [0x84, 0x0A]) ∧
  (crcReg [0x01, 0x83, 0x02] = 0xF1C0 ∧ checksum [0x01, 0x83, 0x02] = 0xC0F1 ∧
    checksumBytes [0x01, 0x83, 0x02] = [0xC0, 0xF1]) ∧
  (crcReg [0x31, 0x32, 0x33, 0x34, 0x35, 0x36, 0x37, 0x38, 0x39] = 0x4B37 ∧
    checksum [0x31, 0x32, 0x33, 0x34, 0x35, 0x36, 0x37, 0x38, 0x39] = 0x374B ∧
    checksumBytes [0x31, 0x32, 0x33, 0x34, 0x35, 0x36, 0x37, 0x38, 0x39] = [0x37, 0x4B]) ∧
  (0xFFFF#16 ^^^ 0x0001#16 = 0xFFFE#16 ∧
    (List.range 8).map (fun k => Nat.repeat crcBit (k + 1) 0xFFFE#16) =
      [0x7FFF, 0x9FFE, 0x4FFF, 0x87FE, 0x43FF, 0x81FE, 0x40FF, 0x807E])

/-- The two bytes appended are the low byte of the CRC register, then its high byte, and they are the high and the low
byte of the checksum value (R122). -/
def Obligations.ChecksumGoesRegisterLowByteFirst : Prop :=
  ∀ body : List Byte,
    withChecksum body = body ++ [lo (crcReg body), hi (crcReg body)] ∧
    withChecksum body = body ++ [hi (checksum body), lo (checksum body)]

/-- The properties of the checksum (R124): what the generator appends verifies; flipping any single bit, in the payload
or in the checksum, makes the verification fail; the CRC register over a whole valid frame is 0. -/
def Obligations.ChecksumCatchesEverySingleBitError : Prop :=
  ∀ body : List Byte,
    verify (withChecksum body) = true ∧
    (∀ k bit : Nat, k < (withChecksum body).length → bit < 8 →
      verify ((withChecksum body).set k (byteAt (withChecksum body) k ^^^ BitVec.twoPow 8 bit)) = false) ∧
    crcReg (withChecksum body) = 0

/-! ## The FrameAssembler -/

/-- A Poll that finds the queue empty changes no state and answers NoFrame (R102). The queue itself is the transport's
to append to (R41, R65); LateBytesWaitInTheQueue says what it holds afterwards. -/
def Obligations.EmptyQueuePollChangesNothing : Prop :=
  ∀ s : State, s.Configured → s.polled.rxq = [] →
    ∃ t, step s = .next t ∧ t = { s.polled with rxq := t.rxq, outcome := some .noFrame }

/-- A Poll that sees a changed count records it, sets the deadline to `(now + 5) mod 2^64`, consumes nothing and
answers Pending (R103). -/
def Obligations.ChangedCountRestartsTheSilence : Prop :=
  ∀ s : State, s.ObservesChange →
    ∃ t, step s = .next t ∧ s.polled.rxq.IsPrefix t.rxq ∧ t = { s.polled with
      lastCount := s.polled.rxq.length, deadline := s.polled.now + 5, rxq := t.rxq, outcome := some .pending }

/-- While the count is stable and `now < deadline`, unsigned and strict, a Poll changes no state and answers Pending;
at `now = deadline` and later the frame is taken (R104). -/
def Obligations.StableCountWaitsForTheDeadline : Prop :=
  ∀ s : State, s.buf.length = 140 → s.Configured → s.polled.rxq ≠ [] →
    s.polled.rxq.length = s.polled.lastCount →
    (s.polled.now.toNat < s.polled.deadline.toNat →
      ∃ t, step s = .next t ∧ t = { s.polled with rxq := t.rxq, outcome := some .pending }) ∧
    (s.polled.deadline.toNat ≤ s.polled.now.toNat →
      ∃ t, step s = .next t ∧ t.rxq = [] ∧ t.lastCount = 0 ∧ t.rxCnt = s.rxCnt + 1)

/-- A drain takes the whole queue and the late bytes, the first 140 of them into `F` in arrival order, counts the frame
and clears the recorded count (R105); more than 140 bytes are an overflow: the rest is discarded, the error counted,
nothing is validated or sent (R106). -/
def Obligations.DrainTakesEverythingUnread : Prop :=
  ∀ s : State, s.Drains → ∃ b : List Byte, b.take (min s.taken.length 140) = s.taken.take 140 ∧
    (s.taken.length ≤ 140 →
      step s = serve { s.polled with
        lastCount := 0, rxq := [], rxCnt := s.rxCnt + 1, frameLen := s.taken.length, buf := b }) ∧
    (140 < s.taken.length →
      step s = .next { s.polled with
        lastCount := 0, rxq := [], rxCnt := s.rxCnt + 1, errCnt := s.errCnt + 1, frameLen := 0, buf := b
        outcome := some .captureOverflow })

/-- Bytes that arrive while a Poll runs that does not drain are in the queue after it, behind the others; a Poll that
drains leaves the queue empty (R41, R65, R105, R107; log 5). -/
def Obligations.LateBytesWaitInTheQueue : Prop :=
  ∀ s t : State, s.buf.length = 140 → step s = .next t →
    ((t.outcome = some .noFrame ∨ t.outcome = some .pending) → t.rxq = s.polled.rxq ++ s.lateBytes) ∧
    (t.outcome ≠ some .noFrame → t.outcome ≠ some .pending → t.rxq = [])

/-- No drain within T35 = 5 of an observed change (R114, R115): if a Poll observes a changed count and `k` Polls later
the machine drains, at least 5 clock units lie between the two Polls, provided the clock does not go back below the
first Poll's value (R57) and does not come within 5 of 2^64 (R278). -/
def Obligations.NoDrainWithinT35OfAnObservedChange : Prop :=
  ∀ (s t : State) (k : Nat), s.ObservesChange → s.polled.now.toNat + 5 < 2 ^ 64 → 1 ≤ k →
    (∀ j u, 1 ≤ j → j ≤ k → Host.Core.run Sys2Proof.core j s = .next u →
      s.polled.now.toNat ≤ (State.polled u).now.toNat ∧ (State.polled u).now.toNat + 5 < 2 ^ 64) →
    Host.Core.run Sys2Proof.core k s = .next t → State.Drains t →
    s.polled.now.toNat + 5 ≤ (State.polled t).now.toNat

/-! ## Address filter, validation, decoding -/

/-- A captured frame whose first byte is not SLAVE_ID is dropped silently (R108): nothing is sent, no error is counted,
`cmd`, the register map and the store are kept; the frame was counted by the drain. -/
def Obligations.FrameForAnotherAddressIsDropped : Prop :=
  ∀ s : State, s.Drains → s.taken.length ≤ 140 → byteAt s.taken 0 ≠ s.slaveId →
    ∃ t, step s = .next t ∧ t.outcome = some .notAddressed ∧ t.tx = s.tx ∧ t.txCnt = s.txCnt ∧
      t.errCnt = s.errCnt ∧ t.cmd = s.cmd ∧ t.rxCnt = s.rxCnt + 1 ∧ t.map = s.polled.map ∧ t.nv = s.nv ∧
      t.frameLen = 0

/-- A frame for this device that is shorter than 4 bytes or whose checksum does not match is dropped silently and
counts an error (R132, R133). -/
def Obligations.ShortOrCorruptFrameIsSilent : Prop :=
  ∀ s : State, s.ServesFrame → (s.taken.length < 4 ∨ verify s.taken = false) →
    ∃ t, step s = .next t ∧ t.outcome = some .noReply ∧ t.tx = s.tx ∧ t.txCnt = s.txCnt ∧
      t.errCnt = s.errCnt + 1 ∧ t.cmd = s.cmd ∧ t.rxCnt = s.rxCnt + 1 ∧ t.map = s.polled.map ∧ t.nv = s.nv ∧
      t.frameLen = 0

/-- A valid frame for this device with an unsupported function byte gets exception 1, whose function byte is
`F[1] | 0x80`, whatever its length (R84, R134). -/
def Obligations.UnsupportedFunctionByteGetsException1 : Prop :=
  ∀ s : State, s.buf.length = 140 → s.ServesFrame → 4 ≤ s.taken.length → verify s.taken = true →
    (byteAt s.taken 1).toNat ∉ [1, 2, 3, 4, 5, 6, 15, 16, 17, 21] →
    ∃ t, step s = .next t ∧ s.capture.Excepts .illegalFunction t ∧
      t.tx = s.tx ++ [withChecksum [s.slaveId, byteAt s.taken 1 ||| 0x80, 1]]

/-- A valid frame for this device that is shorter than the fixed minimum of its function gets exception 3 (R135): 8
for functions 1 to 6, 9 for 15 and 16, 12 for 21 (and 4 for 17, which every such frame has). -/
def Obligations.FrameBelowItsMinimumGetsException3 : Prop :=
  ∀ s : State, s.buf.length = 140 → s.ServesFrame → 4 ≤ s.taken.length → verify s.taken = true →
    ((byteAt s.taken 1).toNat ∈ [1, 2, 3, 4, 5, 6] ∧ s.taken.length < 8 ∨
      (byteAt s.taken 1).toNat ∈ [15, 16] ∧ s.taken.length < 9 ∨
      (byteAt s.taken 1).toNat = 21 ∧ s.taken.length < 12) →
    ∃ t, step s = .next t ∧ s.capture.Excepts .illegalDataValue t ∧
      t.tx = s.tx ++ [withChecksum [s.slaveId, byteAt s.taken 1 ||| 0x80, 3]]

/-- When the next Poll drains a frame for this device that decodes to an instruction, the step is `exec` of that
instruction in the state after the drain, in which `F[0 .. frame_len - 1]` is the frame (R100, R111). -/
def Obligations.StepRunsTheDecodedRequest : Prop :=
  ∀ (s : State) (i : Instr), s.ServesFrame → decode s.taken = .instr i →
    step s = exec i s.capture ∧ s.capture.frame = s.taken

/-- The whole validator (R130, and the order of R148): for every captured frame for this device the step ends as the
result of `rule130` says: silent for 255, the exception for 1, 2, 3, and executed for 0. -/
def Obligations.StepFollowsTheWholeValidator : Prop :=
  ∀ s : State, s.buf.length = 140 → s.ServesFrame →
    ∃ t, step s = .next t ∧
      (rule130 s.taken s.polled.map.inLen s.polled.map.holdLen s.cfg.nvCapacity = 255 ∧
          t = s.capture.dropped .noReply ∨
        rule130 s.taken s.polled.map.inLen s.polled.map.holdLen s.cfg.nvCapacity = 1 ∧
          s.capture.Excepts .illegalFunction t ∨
        rule130 s.taken s.polled.map.inLen s.polled.map.holdLen s.cfg.nvCapacity = 2 ∧
          s.capture.Excepts .illegalDataAddress t ∨
        rule130 s.taken s.polled.map.inLen s.polled.map.holdLen s.cfg.nvCapacity = 3 ∧
          s.capture.Excepts .illegalDataValue t ∨
        rule130 s.taken s.polled.map.inLen s.polled.map.holdLen s.cfg.nvCapacity = 0 ∧
          (t.outcome = some .respOverflow ∨ ∃ m, t.outcome = some (.done m)))

/-- For a configured device, the request of every opcode-table word decodes, and the step after `withFetchWord` runs
it (the model's own interface, log 3 and 4). -/
def Obligations.FetchWordRunsTheTableRequest : Prop :=
  ∀ (s : State) (nbits w : Nat), s.misconfigured = none →
    ∃ i, decodeTableWord nbits w = some i ∧ i.wellFormed = true ∧
      step (s.withFetchWord nbits w) = exec i (s.withFetchWord nbits w).capture ∧
      (s.withFetchWord nbits w).capture.frame = tableFrame s.slaveId nbits w

/-! ## Results: where each instruction completes, and what it then does -/

/-- RDCOIL and RDDISC within the 16 positions complete (R161, R162, R165): the response is the request's first two
bytes, the byte count `ceil(qty/8)` and that many data bytes; bit `k` of the data, least significant bit first, is
element `start + k` of the coil or discrete-input word, and 0 beyond the quantity; `cmd` is the function, `start`,
`qty`; nothing else changes. -/
def Obligations.BitReadsAnswerThePackedBits : Prop :=
  ∀ (s : State) (start qty : Word) (surplus : List Byte) (i : Instr) (fc : Byte) (w : Word),
    s.buf.length = 140 → qty.toNat ≤ 16 → start.toNat ≤ 15 → start.toNat + qty.toNat ≤ 16 →
    (i = .rdcoil start qty surplus ∧ fc = 1 ∧ w = s.map.co ∨
      i = .rddisc start qty surplus ∧ fc = 2 ∧ w = s.map.di) →
    ∃ (d : List Byte) (t : State), exec i s = .next t ∧
      s.Answers ([byteAt s.buf 0, byteAt s.buf 1, BitVec.ofNat 8 ((qty.toNat + 7) / 8)] ++ d)
        ⟨fc, BitVec.ofNat 32 start.toNat, BitVec.ofNat 32 qty.toNat⟩ t ∧
      d.length = (qty.toNat + 7) / 8 ∧
      ∀ k, k < 8 * d.length →
        (byteAt d (k / 8)).getLsbD (k % 8) = (decide (k < qty.toNat) && w.getLsbD (start.toNat + k))

/-- WRCOIL with marker 0x00 or 0xFF and `start` at most 15 completes (R163): coil `start` is set by 0xFF and cleared by
0x00, the other coils keep their values, the first six bytes are echoed, `cmd` is {5, start, 1}; nothing else
changes. -/
def Obligations.CoilWriteWritesOneCoil : Prop :=
  ∀ (s : State) (start : Word) (onoff ignored : Byte) (surplus : List Byte),
    s.buf.length = 140 → (onoff = 0x00 ∨ onoff = 0xFF) → start.toNat ≤ 15 →
    ∃ (co : Word) (t : State), exec (.wrcoil start onoff ignored surplus) s = .next t ∧
      ({ s with map := { s.map with co := co } } : State).Answers (s.buf.take 6)
        ⟨5, BitVec.ofNat 32 start.toNat, 1⟩ t ∧
      ∀ k, k < 16 → co.getLsbD k = if k = start.toNat then decide (onoff = 0xFF) else s.map.co.getLsbD k

/-- WRMCOIL within the 16 positions and with `ceil(qty/8)` data bytes completes (R164): coil `start + k` takes bit
`k mod 8` of data byte `k div 8`, the coils outside the range keep their values, the first six bytes are echoed, `cmd`
is {15, start, qty}; nothing else changes. -/
def Obligations.MultipleCoilWriteUnpacksTheData : Prop :=
  ∀ (s : State) (start qty : Word) (bytecnt : Byte) (data : List Byte),
    s.buf.length = 140 → qty.toNat ≤ 16 → start.toNat ≤ 15 → start.toNat + qty.toNat ≤ 16 →
    (qty.toNat + 7) / 8 ≤ data.length →
    ∃ (co : Word) (t : State), exec (.wrmcoil start qty bytecnt data) s = .next t ∧
      ({ s with map := { s.map with co := co } } : State).Answers (s.buf.take 6)
        ⟨15, BitVec.ofNat 32 start.toNat, BitVec.ofNat 32 qty.toNat⟩ t ∧
      ∀ j, j < 16 → co.getLsbD j =
        if start.toNat ≤ j ∧ j < start.toNat + qty.toNat
        then (byteAt data ((j - start.toNat) / 8)).getLsbD ((j - start.toNat) % 8)
        else s.map.co.getLsbD j

/-- RDHOLD and RDINP of at most 67 registers, accepted by the truncated range check, complete (R183, R184): the
response is the request's first two bytes, the byte count `2 * qty` and the words in big-endian order; word `k` is
element `start + k` below the declared count, and a free word, for every value of the counter `freeIdx`, at or beyond
it (R181 b; log 15); `cmd` is the function, `start`, `qty`; nothing else changes. -/
def Obligations.RegisterReadsAnswerTheWords : Prop :=
  ∀ (s : State) (start qty : Word) (surplus : List Byte) (i : Instr) (fc : Byte) (arr : List Word) (len : Nat),
    s.buf.length = 140 →
    (i = .rdhold start qty surplus ∧ fc = 3 ∧ arr = s.map.hr ∧ len = s.map.holdLen ∨
      i = .rdinp start qty surplus ∧ fc = 4 ∧ arr = s.map.ir ∧ len = s.map.inLen) →
    len ≤ arr.length → (start.toNat + qty.toNat) % 256 ≤ len → qty.toNat ≤ 67 →
    ∃ (d : List Byte) (t : State), exec i s = .next t ∧
      ({ s with freeIdx := s.freeIdx + qty.toNat } : State).Answers
        ([byteAt s.buf 0, byteAt s.buf 1, BitVec.ofNat 8 (2 * qty.toNat)] ++ d)
        ⟨fc, BitVec.ofNat 32 start.toNat, BitVec.ofNat 32 qty.toNat⟩ t ∧
      d.length = 2 * qty.toNat ∧
      ∀ k, k < qty.toNat → be16 d (2 * k) =
        if start.toNat + k < len then arr.getD (start.toNat + k) 0 else Config.freeWord (s.freeIdx + k)

/-- An accepted read of 68 or more registers is a response overflow (R182): nothing is transmitted, the error is
counted, `cmd` and the register map are kept, `frame_len` is 0 (the watchdog deadline was written at dispatch, R110). -/
def Obligations.LongRegisterReadOverflowsTheResponse : Prop :=
  ∀ (s : State) (start qty : Word) (surplus : List Byte), 68 ≤ qty.toNat →
    ((start.toNat + qty.toNat) % 256 ≤ s.map.holdLen →
      exec (.rdhold start qty surplus) s = .next { s with
        wdDeadline := s.now + BitVec.ofNat 64 s.cfg.wdTimeout, errCnt := s.errCnt + 1, frameLen := 0
        outcome := some .respOverflow }) ∧
    ((start.toNat + qty.toNat) % 256 ≤ s.map.inLen →
      exec (.rdinp start qty surplus) s = .next { s with
        wdDeadline := s.now + BitVec.ofNat 64 s.cfg.wdTimeout, errCnt := s.errCnt + 1, frameLen := 0
        outcome := some .respOverflow })

/-- WRREG accepted by the truncated range check completes (R185): holding register `start` takes the value where it is
below the declared count, and nothing is written elsewhere (R181 a); the first six bytes are echoed, `cmd` is
{6, start, 1}; nothing else changes. -/
def Obligations.RegisterWriteWritesOneRegister : Prop :=
  ∀ (s : State) (start value : Word) (surplus : List Byte),
    s.buf.length = 140 → s.map.holdLen ≤ s.map.hr.length → (start.toNat + 1) % 256 ≤ s.map.holdLen →
    ∃ (hr : List Word) (t : State), exec (.wrreg start value surplus) s = .next t ∧
      ({ s with map := { s.map with hr := hr } } : State).Answers (s.buf.take 6)
        ⟨6, BitVec.ofNat 32 start.toNat, 1⟩ t ∧
      hr.length = s.map.hr.length ∧
      ∀ j : Nat, hr[j]? = if j = start.toNat ∧ j < s.map.holdLen then some value else s.map.hr[j]?

/-- WRMREG accepted by the truncated range check and with the data its handler reads completes (R187): with
`nw = max(0, sext_8(F[5]))`, register `start + k` takes the big-endian data word `k` for `k < nw` where it is below the
declared count, every other register is kept; the first six bytes are echoed; `cmd.count` is the number of words
written; nothing else changes. -/
def Obligations.MultipleRegisterWriteIsClamped : Prop :=
  ∀ (s : State) (start qty : Word) (bytecnt : Byte) (data : List Byte) (nw : Nat),
    s.buf.length = 140 → s.map.holdLen ≤ s.map.hr.length →
    (start.toNat + qty.toNat) % 256 ≤ s.map.holdLen →
    nw = (if qty.toNat % 256 < 128 then qty.toNat % 256 else 0) → 2 * nw ≤ data.length →
    ∃ (hr : List Word) (t : State), exec (.wrmreg start qty bytecnt data) s = .next t ∧
      ({ s with map := { s.map with hr := hr } } : State).Answers (s.buf.take 6)
        ⟨16, BitVec.ofNat 32 start.toNat, BitVec.ofNat 32 (min nw (s.map.holdLen - start.toNat))⟩ t ∧
      hr.length = s.map.hr.length ∧
      ∀ j : Nat, hr[j]? =
        if start.toNat ≤ j ∧ j < start.toNat + nw ∧ j < s.map.holdLen
        then some (be16 data (2 * (j - start.toNat)))
        else s.map.hr[j]?

/-- RPTID always completes (R201): the response is the request's first two bytes, the identification string and the two
trailer bytes; `cmd` is {17, 0, L_ID + 2}; nothing else changes. -/
def Obligations.ReportSlaveIdAnswersTheIdentification : Prop :=
  ∀ (s : State) (surplus : List Byte), s.buf.length = 140 →
    ∃ t : State, exec (.rptid surplus) s = .next t ∧
      s.Answers ([byteAt s.buf 0, byteAt s.buf 1] ++ s.cfg.idString.bytes ++ [s.cfg.idTrailer0, s.cfg.idTrailer1])
        ⟨17, 0, BitVec.ofNat 32 (s.cfg.idString.bytes.length + 2)⟩ t

/-- WRFILE with reference type 6, file number 1, a byte range within the capacity and the data it announces completes
(R206): data byte `k` goes to byte address `2 * recno + k` for `k < 2 * reclen`, every other byte of the store reads as
before, the store stays canonical; the response is the request's first three bytes; `cmd` is {21, ba, bl}; nothing else
changes. -/
def Obligations.FileRecordWriteCopiesTheData : Prop :=
  ∀ (s : State) (dlen : Byte) (recno reclen : Word) (data : List Byte),
    s.buf.length = 140 → s.nv.wf → 2 * recno.toNat + 2 * reclen.toNat ≤ s.cfg.nvCapacity →
    2 * reclen.toNat ≤ data.length →
    ∃ (nv : Memory) (t : State), exec (.wrfile dlen 6 1 recno reclen data) s = .next t ∧
      ({ s with nv := nv } : State).Answers (s.buf.take 3)
        ⟨21, BitVec.ofNat 32 (2 * recno.toNat), BitVec.ofNat 32 (2 * reclen.toNat)⟩ t ∧
      nv.wf ∧
      ∀ a, nv.read a =
        if 2 * recno.toNat ≤ a ∧ a < 2 * recno.toNat + 2 * reclen.toNat
        then some (byteAt data (a - 2 * recno.toNat))
        else s.nv.read a

/-- ILLEGAL completes by taking exception 1, which is its effect (R84, R233). -/
def Obligations.IllegalFunctionTakesException1 : Prop :=
  ∀ (s : State) (fc : Byte) (payload : List Byte), s.buf.length = 140 →
    ∃ t, exec (.illegal fc payload) s = .next t ∧ s.Excepts .illegalFunction t

/-! ## Where the instructions take an exception -/

/-- Functions 1, 2 and 15 (R136): a quantity above 16 gives 3, first; then a start above 15 or an end above 16 gives 2;
a quantity of 0 with a start of at most 15 passes (no exception is taken, whatever the data). -/
def Obligations.BitRangeViolations : Prop :=
  ∀ (s : State) (start qty : Word) (bytes : List Byte) (bytecnt : Byte) (i : Instr), s.buf.length = 140 →
    (i = .rdcoil start qty bytes ∨ i = .rddisc start qty bytes ∨ i = .wrmcoil start qty bytecnt bytes) →
    (16 < qty.toNat → ∃ t, exec i s = .next t ∧ s.Excepts .illegalDataValue t) ∧
    (qty.toNat ≤ 16 → (15 < start.toNat ∨ 16 < start.toNat + qty.toNat) →
      ∃ t, exec i s = .next t ∧ s.Excepts .illegalDataAddress t) ∧
    (qty.toNat = 0 → start.toNat ≤ 15 → ∃ t m, exec i s = .next t ∧ t.outcome = some (.done m))

/-- Function 5 (R138): a marker other than 0x00 and 0xFF gives 3, first; then a start above 15 gives 2; the byte at
index 5 is not examined. -/
def Obligations.CoilWriteViolations : Prop :=
  ∀ (s : State) (start : Word) (onoff ignored : Byte) (surplus : List Byte), s.buf.length = 140 →
    (onoff ≠ 0x00 → onoff ≠ 0xFF →
      ∃ t, exec (.wrcoil start onoff ignored surplus) s = .next t ∧ s.Excepts .illegalDataValue t) ∧
    ((onoff = 0x00 ∨ onoff = 0xFF) → 15 < start.toNat →
      ∃ t, exec (.wrcoil start onoff ignored surplus) s = .next t ∧ s.Excepts .illegalDataAddress t)

/-- Functions 3, 4, 6 and 16 (R139 to R142): exception 2 when the low 8 bits of the end address exceed the declared
count, with quantity 1 for function 6, and no exception 2 otherwise; no test is made on the quantity itself. -/
def Obligations.EndAddressViolations : Prop :=
  ∀ (s : State) (start qty : Word) (bytes : List Byte) (bytecnt : Byte), s.buf.length = 140 →
    (s.map.holdLen < (start.toNat + qty.toNat) % 256 →
      (∃ t, exec (.rdhold start qty bytes) s = .next t ∧ s.Excepts .illegalDataAddress t) ∧
      (∃ t, exec (.wrmreg start qty bytecnt bytes) s = .next t ∧ s.Excepts .illegalDataAddress t)) ∧
    (s.map.inLen < (start.toNat + qty.toNat) % 256 →
      ∃ t, exec (.rdinp start qty bytes) s = .next t ∧ s.Excepts .illegalDataAddress t) ∧
    (s.map.holdLen < (start.toNat + 1) % 256 →
      ∃ t, exec (.wrreg start qty bytes) s = .next t ∧ s.Excepts .illegalDataAddress t) ∧
    ((start.toNat + qty.toNat) % 256 ≤ s.map.holdLen → ∀ t,
      (exec (.rdhold start qty bytes) s = .next t ∨ exec (.wrmreg start qty bytecnt bytes) s = .next t) →
      t.outcome ≠ some (.exception .illegalDataAddress)) ∧
    ((start.toNat + qty.toNat) % 256 ≤ s.map.inLen → ∀ t, exec (.rdinp start qty bytes) s = .next t →
      t.outcome ≠ some (.exception .illegalDataAddress)) ∧
    ((start.toNat + 1) % 256 ≤ s.map.holdLen → ∀ t, exec (.wrreg start qty bytes) s = .next t →
      t.outcome ≠ some (.exception .illegalDataAddress))

/-- Function 21 (R145): exception 2 for a reference type other than 6, a file number other than 1, or a byte range,
exact and not truncated, that ends beyond the capacity, with no store byte written; and no exception 2 otherwise,
whatever `dlen` is. -/
def Obligations.FileRecordViolations : Prop :=
  ∀ (s : State) (dlen reftype : Byte) (fileno recno reclen : Word) (data : List Byte), s.buf.length = 140 →
    ((reftype ≠ 6 ∨ fileno ≠ 1 ∨ s.cfg.nvCapacity < 2 * recno.toNat + 2 * reclen.toNat) →
      ∃ t, exec (.wrfile dlen reftype fileno recno reclen data) s = .next t ∧ s.Excepts .illegalDataAddress t ∧
        t.nv = s.nv) ∧
    (reftype = 6 → fileno = 1 → 2 * recno.toNat + 2 * reclen.toNat ≤ s.cfg.nvCapacity → ∀ t,
      exec (.wrfile dlen reftype fileno recno reclen data) s = .next t →
      t.outcome ≠ some (.exception .illegalDataAddress))

/-- Functions 15, 16 and 21 (R147): after the range checks have passed, exception 3 when the frame holds fewer data
bytes than the handler reads. -/
def Obligations.MissingDataGetsException3 : Prop :=
  ∀ (s : State) (start qty : Word) (b : Byte) (recno reclen : Word) (data : List Byte), s.buf.length = 140 →
    (qty.toNat ≤ 16 → start.toNat ≤ 15 → start.toNat + qty.toNat ≤ 16 → data.length < (qty.toNat + 7) / 8 →
      ∃ t, exec (.wrmcoil start qty b data) s = .next t ∧ s.Excepts .illegalDataValue t) ∧
    ((start.toNat + qty.toNat) % 256 ≤ s.map.holdLen →
      data.length < 2 * (if qty.toNat % 256 < 128 then qty.toNat % 256 else 0) →
      ∃ t, exec (.wrmreg start qty b data) s = .next t ∧ s.Excepts .illegalDataValue t) ∧
    (2 * recno.toNat + 2 * reclen.toNat ≤ s.cfg.nvCapacity → data.length < 2 * reclen.toNat →
      ∃ t, exec (.wrfile b 6 1 recno reclen data) s = .next t ∧ s.Excepts .illegalDataValue t)

/-! ## Building and sending responses -/

/-- BuildException (R216): the function byte becomes `original | 0x80`, the third byte the code, the frame length 3;
the address byte and everything else is kept. -/
def Obligations.BuildExceptionRewritesTheHead : Prop :=
  ∀ (s : State) (c : ExcCode), s.buf.length = 140 →
    ∃ b : List Byte, b.length = 140 ∧ b.take 3 = [byteAt s.buf 0, byteAt s.buf 1 ||| 0x80, c.toByte] ∧
      b.drop 3 = s.buf.drop 3 ∧ s.buildException c = { s with buf := b, frameLen := 3 } ∧
      (c = .illegalFunction ∧ c.toByte = 1 ∨ c = .illegalDataAddress ∧ c.toByte = 2 ∨
        c = .illegalDataValue ∧ c.toByte = 3)

/-- Send (R218, R219): the checksum of the body is appended in `F`, the whole frame is handed over in one call,
`frame_len` becomes 0 and the transmit counter grows by one; nothing else changes. -/
def Obligations.SendHandsOverTheWholeFrame : Prop :=
  ∀ s : State, s.buf.length = 140 → s.frameLen ≤ 138 →
    ∃ b : List Byte, b.length = 140 ∧ b.take (s.frameLen + 2) = withChecksum (s.buf.take s.frameLen) ∧
      s.send = { s with
        buf := b, frameLen := 0, txCnt := s.txCnt + 1, tx := s.tx ++ [withChecksum (s.buf.take s.frameLen)] }

/-- Taking an exception (R217, R242): one error and one frame are counted, the frame sent is the address byte, the
function byte with bit 7 set (unchanged where it was set), the code and the checksum, 5 bytes; no state is saved, `cmd`,
the register map, the store and everything else are kept. -/
def Obligations.TakingAnExceptionSendsFiveBytes : Prop :=
  ∀ (s : State) (c : ExcCode), s.buf.length = 140 →
    s.Excepts c (s.takeException c) ∧
    (s.takeException c).tx = s.tx ++ [withChecksum [byteAt s.buf 0, byteAt s.buf 1 ||| 0x80, c.toByte]] ∧
    (withChecksum [byteAt s.buf 0, byteAt s.buf 1 ||| 0x80, c.toByte]).length = 5 ∧
    ((byteAt s.buf 1).getLsbD 7 = true → byteAt s.buf 1 ||| 0x80 = byteAt s.buf 1)

/-! ## Frames: what an instruction leaves unchanged -/

/-- The reading functions, RPTID and ILLEGAL store nothing: the register map, every byte of the store, the queue, the
timing state, the receive counter, the address, the parameters and the schedule are kept; only a register read advances
the free counter, and `cmd` changes only with a normal response. -/
def Obligations.ReadingRequestsStoreNothing : Prop :=
  ∀ (s t : State) (i : Instr),
    (∃ (start qty : Word) (bytes : List Byte) (fc : Byte),
      i = .rdcoil start qty bytes ∨ i = .rddisc start qty bytes ∨ i = .rdhold start qty bytes ∨
      i = .rdinp start qty bytes ∨ i = .rptid bytes ∨ i = .illegal fc bytes) →
    exec i s = .next t →
    t.map = s.map ∧ (∀ a, t.nv.read a = s.nv.read a) ∧ t.nv = s.nv ∧ t.slaveId = s.slaveId ∧
    t.lastCount = s.lastCount ∧ t.deadline = s.deadline ∧ t.rxCnt = s.rxCnt ∧ t.rxq = s.rxq ∧ t.now = s.now ∧
    t.cfg = s.cfg ∧ t.schedule = s.schedule ∧
    ((∀ start qty bytes, i ≠ .rdhold start qty bytes ∧ i ≠ .rdinp start qty bytes) → t.freeIdx = s.freeIdx) ∧
    (t.cmd = s.cmd ∨ ∃ m, t.outcome = some (.done m))

/-- WRCOIL and WRMCOIL change no register but the coil word, and of it only the coils from `start` on for the quantity
(one, for WRCOIL); the store and everything that is not a counter, `cmd`, the RawFrame or an output is kept. -/
def Obligations.CoilWritesKeepEverythingElse : Prop :=
  ∀ (s t : State) (i : Instr) (start qty : Word) (b c : Byte) (bytes : List Byte) (n : Nat),
    (i = .wrcoil start b c bytes ∧ n = 1 ∨ i = .wrmcoil start qty b bytes ∧ n = qty.toNat) →
    exec i s = .next t →
    t.map = { s.map with co := t.map.co } ∧
    (∀ k, k < 16 → ¬(start.toNat ≤ k ∧ k < start.toNat + n) → t.map.co.getLsbD k = s.map.co.getLsbD k) ∧
    (∀ a, t.nv.read a = s.nv.read a) ∧ t.nv = s.nv ∧ t.slaveId = s.slaveId ∧ t.lastCount = s.lastCount ∧
    t.deadline = s.deadline ∧ t.rxCnt = s.rxCnt ∧ t.rxq = s.rxq ∧ t.now = s.now ∧ t.cfg = s.cfg ∧
    t.freeIdx = s.freeIdx ∧ t.schedule = s.schedule ∧
    (t.cmd = s.cmd ∧ t.map = s.map ∨ ∃ m, t.outcome = some (.done m))

/-- WRREG and WRMREG change no register but the holding registers from `start` on for the word count (one, for WRREG)
and below the declared count; the number of registers, the store and everything that is not a counter, `cmd`, the
RawFrame or an output is kept. -/
def Obligations.RegisterWritesKeepEverythingElse : Prop :=
  ∀ (s t : State) (i : Instr) (start qty : Word) (b : Byte) (bytes : List Byte) (n : Nat),
    (i = .wrreg start qty bytes ∧ n = 1 ∨
      i = .wrmreg start qty b bytes ∧ n = (if qty.toNat % 256 < 128 then qty.toNat % 256 else 0)) →
    exec i s = .next t →
    t.map = { s.map with hr := t.map.hr } ∧ t.map.hr.length = s.map.hr.length ∧
    (∀ j : Nat, ¬(start.toNat ≤ j ∧ j < start.toNat + n ∧ j < s.map.holdLen) → t.map.hr[j]? = s.map.hr[j]?) ∧
    (∀ a, t.nv.read a = s.nv.read a) ∧ t.nv = s.nv ∧ t.slaveId = s.slaveId ∧ t.lastCount = s.lastCount ∧
    t.deadline = s.deadline ∧ t.rxCnt = s.rxCnt ∧ t.rxq = s.rxq ∧ t.now = s.now ∧ t.cfg = s.cfg ∧
    t.freeIdx = s.freeIdx ∧ t.schedule = s.schedule ∧
    (t.cmd = s.cmd ∧ t.map = s.map ∨ ∃ m, t.outcome = some (.done m))

/-- WRFILE changes no byte of the store outside the `2 * reclen` bytes from byte address `2 * recno` on, the address its
meaning stores to; the register map and everything that is not a counter, `cmd`, the RawFrame or an output is kept. -/
def Obligations.FileRecordWriteKeepsEverythingElse : Prop :=
  ∀ (s t : State) (dlen reftype : Byte) (fileno recno reclen : Word) (data : List Byte),
    exec (.wrfile dlen reftype fileno recno reclen data) s = .next t →
    (∀ ba a, ba = doubled recno → ¬(ba ≤ a ∧ a < ba + doubled reclen) → t.nv.read a = s.nv.read a) ∧
    t.map = s.map ∧ t.slaveId = s.slaveId ∧ t.lastCount = s.lastCount ∧ t.deadline = s.deadline ∧
    t.rxCnt = s.rxCnt ∧ t.rxq = s.rxq ∧ t.now = s.now ∧ t.cfg = s.cfg ∧ t.freeIdx = s.freeIdx ∧
    t.schedule = s.schedule ∧ (t.cmd = s.cmd ∧ t.nv = s.nv ∨ ∃ m, t.outcome = some (.done m))

/-! ## Reset, invariant, and what holds of every step -/

/-- After power-up (R43, R261): the assembler is idle, `frame_len` is 0, `cmd` is {0, 0, 0}, the deadlines and the three
counters are 0, and SLAVE_ID is in 1..247. -/
def Obligations.PowerUpLeavesTheEngineIdle : Prop :=
  State.reset.lastCount = 0 ∧ State.reset.frameLen = 0 ∧ State.reset.cmd = ⟨0, 0, 0⟩ ∧ State.reset.deadline = 0 ∧
  State.reset.wdDeadline = 0 ∧ State.reset.rxCnt = 0 ∧ State.reset.txCnt = 0 ∧ State.reset.errCnt = 0 ∧
  1 ≤ State.reset.slaveId.toNat ∧ State.reset.slaveId.toNat ≤ 247

/-- The invariant holds at reset. `frame_len` and the recorded count are 0 by R43, and F has 140 bytes by R30. The other
clauses hold by the model's choices for `State.reset`, not by a rule: the transmit stream is empty (log 12), the store
lists no byte (log 10), and the 140 bytes of F are the uninterpreted constants of log 6. -/
def Obligations.ResetSatisfiesTheInvariant : Prop := State.reset.Inv

/-- Every step keeps the invariant, from every state that meets it: the RawFrame has its 140 bytes and `frame_len` is 0
between Polls (R30), the recorded count never exceeds the queue (R41, R113), the store is canonical and within the
capacity (R46), and every frame ever sent has 5 to 140 bytes, begins with SLAVE_ID and verifies (R70, R215, R218). Over a
power-up the last clause holds by the model's choices: SLAVE_ID is kept (log 28, DESIGN CHOICE, unsafe for a device that
comes up with another one) and so is the record of the frames sent (log 12, DESIGN CHOICE). -/
def Obligations.EveryStepKeepsTheInvariant : Prop :=
  ∀ s t : State, s.Inv → step s = .next t → t.Inv

/-- Every Poll of a configured device terminates with an outcome, and no Poll writes a register-map element outside the
coils and the holding registers below the declared count, nor a store byte at or above the capacity (R46). -/
def Obligations.PollsTerminateAndStayInBounds : Prop :=
  ∀ s : State, s.buf.length = 140 → s.Configured →
    ∃ t o, step s = .next t ∧ t.outcome = some o ∧
      t.map = { s.polled.map with co := t.map.co, hr := t.map.hr } ∧
      t.map.hr.length = s.polled.map.hr.length ∧
      (∀ j : Nat, s.polled.map.holdLen ≤ j → t.map.hr[j]? = s.polled.map.hr[j]?) ∧
      (∀ a, s.cfg.nvCapacity ≤ a → t.nv.read a = s.nv.read a)

/-- A device configured with SLAVE_ID = 0 or SLAVE_ID > 247 is refused (R11). -/
def Obligations.SlaveIdOutsideItsRangeIsRefused : Prop :=
  ∀ s : State, (s.slaveId.toNat = 0 ∨ 247 < s.slaveId.toNat) → step s = .refused .slaveIdOutOfRange

/-- A Poll with a declared count above 255, or above the length of the array passed, is refused (R273, U11; log 16), and
these two are the only configurations a step refuses. -/
def Obligations.DeclaredCountsOutsideTheirRangeAreRefused : Prop :=
  ∀ s : State, 1 ≤ s.slaveId.toNat → s.slaveId.toNat ≤ 247 →
    (step s = .refused .declaredCountOutOfRange ↔
      (255 < s.polled.map.inLen ∨ 255 < s.polled.map.holdLen ∨ s.polled.map.ir.length < s.polled.map.inLen ∨
        s.polled.map.hr.length < s.polled.map.holdLen)) ∧
    (∀ r, step s = .refused r → r = .declaredCountOutOfRange)

/-- No step writes SLAVE_ID ("immutable during normal operation", R29) or a parameter of the device; that a power-up
before the Poll keeps them is the model's choice (log 28). -/
def Obligations.NoStepWritesTheSlaveId : Prop :=
  ∀ s t : State, s.buf.length = 140 → step s = .next t → t.slaveId = s.slaveId ∧ t.cfg = s.cfg

/-- The outcome of a Poll fixes what it did to the counters it started with, and only `Done` changes `cmd`, the register
map or the store (R236, R221, R237). What a Poll starts with is `s.polled`: `s` with the Poll's inputs, after a power-up
where one precedes it (OnlyPowerUpResetsTheEngine). -/
def Obligations.OutcomeFixesTheCounters : Prop :=
  ∀ s t : State, s.buf.length = 140 → step s = .next t →
    ∃ o, t.outcome = some o ∧
      t.rxCnt = s.polled.rxCnt + (match o with | .noFrame => 0 | .pending => 0 | _ => 1) ∧
      t.txCnt = s.polled.txCnt + (match o with | .exception _ => 1 | .done _ => 1 | _ => 0) ∧
      t.errCnt = s.polled.errCnt +
        (match o with | .captureOverflow => 1 | .noReply => 1 | .exception _ => 1 | .respOverflow => 1 | _ => 0) ∧
      ((∀ m, o ≠ .done m) → t.cmd = s.polled.cmd ∧ t.map = s.polled.map ∧ t.nv = s.nv)

/-- Between counter wraps neither the transmitted frames nor the errors ever exceed the received frames (R236). -/
def Obligations.CountersNeverExceedTheReceived : Prop :=
  ∀ s t : State, s.buf.length = 140 → s.txCnt.toNat ≤ s.rxCnt.toNat → s.errCnt.toNat ≤ s.rxCnt.toNat →
    s.rxCnt.toNat < 65535 → step s = .next t →
    t.txCnt.toNat ≤ t.rxCnt.toNat ∧ t.errCnt.toNat ≤ t.rxCnt.toNat

/-- At most one frame is sent per Poll, exactly in a Poll that ends in an exception or Done, with the number of bytes
that `Done` carries (R220, R40); that a power-up before the Poll keeps the record of the frames sent before is the
model's choice (log 12, 28). -/
def Obligations.OneFrameIsSentPerAnsweredPoll : Prop :=
  ∀ s t : State, s.buf.length = 140 → step s = .next t →
    (∃ f, t.tx = s.tx ++ [f] ∧ ((∃ c, t.outcome = some (.exception c) ∧ f.length = 5) ∨
      t.outcome = some (.done f.length))) ∨
    (t.tx = s.tx ∧ (∀ c, t.outcome ≠ some (.exception c)) ∧ ∀ m, t.outcome ≠ some (.done m))

/-- A frame of at least 4 bytes for this device is answered if its checksum is valid, the response overflow apart, and
not answered if it is not; frames for another address, overflowed captures and frames below 4 bytes are silent whatever
their checksum (R45, R132). -/
def Obligations.ResponseExactlyWhenTheChecksumIsValid : Prop :=
  ∀ s : State, s.buf.length = 140 → s.Drains →
    ∃ t, step s = .next t ∧
      (s.taken.length ≤ 140 → byteAt s.taken 0 = s.slaveId → 4 ≤ s.taken.length → verify s.taken = true →
        (∃ f, t.tx = s.tx ++ [f]) ∨ t.tx = s.tx ∧ t.outcome = some .respOverflow) ∧
      ((140 < s.taken.length ∨ byteAt s.taken 0 ≠ s.slaveId ∨ s.taken.length < 4 ∨ verify s.taken = false) →
        t.tx = s.tx)

/-! ## What cannot matter -/

/-- Stale frame bytes are never read (R44): from two states that differ only in the 140 bytes of `F`, a step leads to
two states that differ only in the bytes of `F`; what was sent is the same. -/
def Obligations.StaleFrameBytesNeverMatter : Prop :=
  ∀ (s t : State) (b : List Byte), s.buf.length = 140 → b.length = 140 → step s = .next t →
    ∃ b', b'.length = 140 ∧ step { s with buf := b } = .next { t with buf := b' }

/-- No outcome, response, counter, register or store byte depends on the watchdog deadline or on WD_TIMEOUT (R110):
from two states that differ only in them, a step leads to two states that differ only in them. -/
def Obligations.WatchdogNeverMatters : Prop :=
  ∀ (s t : State) (w : Time) (n : Nat), step s = .next t →
    ∃ w', step { s with wdDeadline := w, cfg := { s.cfg with wdTimeout := n } } =
      .next { t with wdDeadline := w', cfg := { t.cfg with wdTimeout := n } }

/-- `deadline` is never read before it is written (R262): while the assembler is idle its value influences no outcome,
and once the assembler counts it is gone. -/
def Obligations.DeadlineOfAnIdleAssemblerNeverMatters : Prop :=
  ∀ (s t : State) (d : Time), s.lastCount = 0 → step s = .next t →
    ∃ d', step { s with deadline := d } = .next { t with deadline := d' } ∧ (t.lastCount ≠ 0 → d' = t.deadline)

/-- Repeating an identical valid write request leaves the same state and produces the same response bytes (R67): the
coils, registers, store bytes and `cmd` after the second execution are those after the first. -/
def Obligations.ReplayedWriteRequestsAreIdempotent : Prop :=
  ∀ (s t : State) (f : List Byte) (i : Instr) (m : Nat), s.buf.length = 140 → s.misconfigured = none →
    f.length ≤ 140 → byteAt f 0 = s.slaveId → decode f = .instr i →
    i.functionCode.toNat ∈ [5, 6, 15, 16, 21] → step (s.placeFrame f) = .next t → t.outcome = some (.done m) →
    ∃ u r, step (t.placeFrame f) = .next u ∧ u.outcome = some (.done m) ∧
      t.tx = s.tx ++ [r] ∧ u.tx = t.tx ++ [r] ∧ u.map = t.map ∧ u.cmd = t.cmd ∧ ∀ a, u.nv.read a = t.nv.read a

/-! ## Power-up, the only reset -/

/-- What a Poll starts with (R260, R263; power-up is an input of the model, log 28). Where power was cycled before it:
the counters, the deadlines, `last_count`, `frame_len` and `cmd` are R43's zeros, F is 140 unspecified bytes, no Poll has
returned (log 14), and the store, the queue and the register map are kept but for what the inputs of the Poll append or
replace. Where it was not: everything is as the last Poll left it, but for those inputs. -/
def Obligations.OnlyPowerUpResetsTheEngine : Prop :=
  ∀ s : State,
    (s.schedule = [] → s.polled = s) ∧
    ∀ (p : PollInput) (rest : List PollInput), s.schedule = p :: rest →
      (p.powerUp = false →
        s.polled = { s with now := p.now, rxq := s.rxq ++ p.arrived, map := p.map.getD s.map, schedule := rest }) ∧
      (p.powerUp = true → ∃ b : List Byte, b.length = 140 ∧
        s.polled = { s with
          now := p.now, rxq := s.rxq ++ p.arrived, map := p.map.getD s.map, schedule := rest
          buf := b, freeIdx := s.freeIdx + 140, frameLen := 0, lastCount := 0, deadline := 0, wdDeadline := 0
          rxCnt := 0, txCnt := 0, errCnt := 0, cmd := ⟨0, 0, 0⟩, outcome := none })

/-- The first Poll after a power-up (R261, R263; log 28): every byte of the store reads as before, the register map is the
application's, the counters and `cmd` are 0 and nothing is sent (the record of the frames sent before is kept, log 12). It treats the bytes that the queue holds as the start of
a frame, like any others: with none it answers NoFrame and stays idle; with some it records their count, sets the
deadline and answers Pending. -/
def Obligations.FirstPollAfterPowerUp : Prop :=
  ∀ s : State, s.powersUp = true → s.Configured →
    ∃ t, step s = .next t ∧ (∀ a, t.nv.read a = s.nv.read a) ∧ t.nv = s.nv ∧ t.map = s.polled.map ∧ t.tx = s.tx ∧
      t.rxCnt = 0 ∧ t.txCnt = 0 ∧ t.errCnt = 0 ∧ t.cmd = ⟨0, 0, 0⟩ ∧ t.frameLen = 0 ∧
      s.rxq.IsPrefix t.rxq ∧
      (s.polled.rxq = [] → t.outcome = some .noFrame ∧ t.lastCount = 0) ∧
      (s.polled.rxq ≠ [] → t.outcome = some .pending ∧ t.lastCount = s.polled.rxq.length ∧
        t.deadline = s.polled.now + 5)

/-! ## Reading the store -/

/-- `nvstore_read` answers one byte at every address (R58, R39): the byte last written there, a free byte, for every value
of `Config.nvByte`, where nothing was written (log 10), and after a WRFILE that completes (R206) the data byte that landed
there, or what it answered before. -/
def Obligations.StoreReadAnswersTheByteWritten : Prop :=
  (∀ (m : Memory) (a : Nat) (v : Byte),
    (m.write a v).nvstoreRead a = v ∧ (∀ b, b ≠ a → (m.write a v).nvstoreRead b = m.nvstoreRead b) ∧
    ((∀ c ∈ m, c.1 ≠ a) → m.nvstoreRead a = Config.nvByte a)) ∧
  ∀ (s : State) (dlen : Byte) (recno reclen : Word) (data : List Byte),
    2 * recno.toNat + 2 * reclen.toNat ≤ s.cfg.nvCapacity → 2 * reclen.toNat ≤ data.length →
    ∃ t, exec (.wrfile dlen 6 1 recno reclen data) s = .next t ∧ ∀ a, t.nv.nvstoreRead a =
      if 2 * recno.toNat ≤ a ∧ a < 2 * recno.toNat + 2 * reclen.toNat
      then byteAt data (a - 2 * recno.toNat)
      else s.nv.nvstoreRead a
end

