-- ==== Sys2Proof/Laws/Bits.lean ====
section
/-! SUPPORT. The bit operations (43_bit_functions.md): what one written bit changes, what a run of written coils holds,
and which element each bit of a packed byte carries. -/

namespace Sys2Proof.Machine

theorem getLsbD_setBit (w : Word) {i : Nat} (hi : i < 16) (b : Bool) (j : Nat) :
    (setBit w i b).getLsbD j = if j = i then b else w.getLsbD j := by
  unfold setBit
  by_cases hj : j < 16
  · cases b <;> by_cases h : j = i
    · subst h; simp [hj]
    · simp [h, hj]
    · subst h; simp [hj]
    · simp [h, BitVec.getLsbD_twoPow, Ne.symm h]
  · have hne : j ≠ i := by omega
    rw [if_neg hne, BitVec.getLsbD_of_ge _ _ (by omega), BitVec.getLsbD_of_ge _ _ (by omega)]

/-- The coil word after `qty` coils from `start` on were written (R164): the data bit inside the range, the old coil
outside. -/
theorem getLsbD_writeCoils (co : Word) {start qty : Nat} (h : start + qty ≤ 16) (data : List Byte) (j : Nat) :
    (writeCoils co start qty data).getLsbD j =
      if start ≤ j ∧ j < start + qty then (byteAt data ((j - start) / 8)).getLsbD ((j - start) % 8)
      else co.getLsbD j := by
  unfold writeCoils
  induction qty with
  | zero =>
    have : ¬(start ≤ j ∧ j < start + 0) := by omega
    simp only [List.range_zero, List.foldl_nil, if_neg this]
  | succ n ih =>
    rw [List.range_succ, List.foldl_append, List.foldl_cons, List.foldl_nil, getLsbD_setBit _ (by omega),
      ih (by omega)]
    by_cases hj : j = start + n
    · subst hj; simp
    · rw [if_neg hj]
      by_cases hr : start ≤ j ∧ j < start + n
      · rw [if_pos hr, if_pos (by omega)]
      · rw [if_neg hr, if_neg (by omega)]

@[simp] theorem length_packBits (w : Word) (start qty : Nat) : (packBits w start qty).length = ceilDiv8 qty := by
  simp [packBits]

/-- Bit `i` of packed byte `j` is element `start + 8j + i`, and 0 beyond the quantity (R165). -/
theorem getLsbD_packByte (w : Word) (start qty j : Nat) {i : Nat} (hi : i < 8) :
    (packByte w start qty j).getLsbD i = (decide (8 * j + i < qty) && w.getLsbD (start + (8 * j + i))) := by
  have key : ∀ n, n ≤ 8 → ∀ i, i < 8 →
      ((List.range n).foldl (fun (d : Byte) i =>
        if 8 * j + i < qty ∧ w.getLsbD (start + (8 * j + i)) then d ||| BitVec.twoPow 8 i else d) 0).getLsbD i =
      (decide (i < n) && (decide (8 * j + i < qty) && w.getLsbD (start + (8 * j + i)))) := by
    intro n
    induction n with
    | zero => intro _ i _; simp
    | succ n ih =>
      intro hn i hi
      rw [List.range_succ, List.foldl_append, List.foldl_cons, List.foldl_nil]
      have hih := ih (by omega) i hi
      by_cases hin : i = n
      · subst hin
        split
        · rename_i hc
          rw [BitVec.getLsbD_or, hih]; simp [hc.1, hc.2, hi]
        · rename_i hc
          rw [hih]
          simp only [Nat.lt_irrefl, decide_false, Bool.false_and, Nat.lt_succ_self, decide_true, Bool.true_and]
          cases hb : w.getLsbD (start + (8 * j + i)) <;> simp_all
      · have : (decide (i < n + 1)) = decide (i < n) := by simp; omega
        rw [this]
        split
        · rw [BitVec.getLsbD_or, hih, BitVec.getLsbD_twoPow]; simp [Ne.symm hin]
        · exact hih
  simpa [packByte, hi] using key 8 (le_refl 8) i hi

/-- Bit `k` of the data of a bit read, counted over the bytes, is element `start + k` (R53, R165). -/
theorem getLsbD_packBits (w : Word) (start qty : Nat) {k : Nat} (hk : k < 8 * ceilDiv8 qty) :
    (byteAt (packBits w start qty) (k / 8)).getLsbD (k % 8) = (decide (k < qty) && w.getLsbD (start + k)) := by
  have h8 : k / 8 < ceilDiv8 qty := by omega
  have hb : byteAt (packBits w start qty) (k / 8) = packByte w start qty (k / 8) := by
    simp [byteAt, packBits, h8]
  rw [hb, getLsbD_packByte _ _ _ _ (by omega), show 8 * (k / 8) + k % 8 = k by omega]

end Sys2Proof.Machine
end

