-- ==== Sys2Proof/Laws/Checksum.lean ====
section
/-! SUPPORT. Byte order and the checksum (41_checksum.md): the bytes appended verify (R124), the CRC loop is one to
one in the register and in the byte, and a register whose value equals the two trailing bytes is brought to zero. -/

namespace Sys2Proof.Machine

theorem getLsbD_be (a b : Byte) (i : Nat) :
    (be a b).getLsbD i = if i < 8 then b.getLsbD i else a.getLsbD (i - 8) := by
  unfold be; rw [BitVec.getLsbD_append]

theorem getLsbD_hi (w : Word) (i : Nat) : (hi w).getLsbD i = (decide (i < 8) && w.getLsbD (8 + i)) := by
  simp [hi]

theorem getLsbD_lo (w : Word) (i : Nat) : (lo w).getLsbD i = (decide (i < 8) && w.getLsbD i) := by
  simp [lo]

@[simp] theorem hi_be (a b : Byte) : hi (be a b) = a := by
  apply BitVec.eq_of_getLsbD_eq
  intro i h
  rw [getLsbD_hi, getLsbD_be, if_neg (by omega)]; simp [h]

@[simp] theorem lo_be (a b : Byte) : lo (be a b) = b := by
  apply BitVec.eq_of_getLsbD_eq
  intro i h
  rw [getLsbD_lo, getLsbD_be, if_pos h]; simp [h]

@[simp] theorem be_hi_lo (w : Word) : be (hi w) (lo w) = w := by
  apply BitVec.eq_of_getLsbD_eq
  intro i h
  by_cases h8 : i < 8
  · rw [getLsbD_be, if_pos h8, getLsbD_lo]; simp [h8]
  · rw [getLsbD_be, if_neg h8, getLsbD_hi]; simp [show i - 8 < 8 by omega, show 8 + (i - 8) = i by omega]

@[simp] theorem length_checksumBytes (bs : List Byte) : (checksumBytes bs).length = 2 := rfl

@[simp] theorem length_withChecksum (bs : List Byte) : (withChecksum bs).length = bs.length + 2 := by
  simp [withChecksum]

theorem byteAt_append_left {f g : List Byte} {i : Nat} (h : i < f.length) : byteAt (f ++ g) i = byteAt f i := by
  simp [byteAt, List.getElem?_append_left h]

theorem byteAt_append_right (f g : List Byte) (i : Nat) : byteAt (f ++ g) (f.length + i) = byteAt g i := by
  simp [byteAt, List.getElem?_append_right]

/-- The checksum appended by the generator is the one the verifier looks for (R122, R123). -/
@[simp] theorem verify_withChecksum (body : List Byte) : verify (withChecksum body) = true := by
  have h0 : byteAt (withChecksum body) body.length = hi (checksum body) := by
    exact byteAt_append_right body (checksumBytes body) 0
  have h1 : byteAt (withChecksum body) (body.length + 1) = lo (checksum body) := by
    exact byteAt_append_right body (checksumBytes body) 1
  have h2 : (withChecksum body).take ((withChecksum body).length - 2) = body := by
    rw [length_withChecksum, withChecksum]; simp
  rw [verify, h2, be16, length_withChecksum, Nat.add_sub_cancel, h0, h1, be_hi_lo, beq_self_eq_true]

/-- Decoding a frame whose checksum is right comes down to its function byte and payload. -/
theorem decode_withChecksum (a fc : Byte) (p : List Byte) :
    decode (withChecksum (a :: fc :: p)) = decodePayload fc p := by
  have h : byteAt (withChecksum (a :: fc :: p)) 1 = fc := rfl
  unfold decode
  rw [verify_withChecksum, h]
  simp [withChecksum]

/-- One bit of the CRC loop is one to one: bit 15 of the result tells which branch was taken. -/
theorem crcBit_injective : Function.Injective crcBit := by
  intro c d h
  unfold crcBit at h
  have h15 := congrArg (fun w : Word => w.getLsbD 15) h
  have key : ∀ i, i < 15 → c.getLsbD (i + 1) = d.getLsbD (i + 1) := by
    intro i hi
    have hb := congrArg (fun w : Word => w.getLsbD i) h
    cases hc : c.getLsbD 0 <;> cases hd : d.getLsbD 0 <;>
      simp only [hc, hd, BitVec.getLsbD_xor, BitVec.getLsbD_ushiftRight, if_true, if_false, Bool.false_eq_true,
        Nat.add_comm 1] at hb h15 ⊢
    · exact hb
    · exact absurd h15 (by simp)
    · exact absurd h15 (by simp)
    · simpa using hb
  have h0 : c.getLsbD 0 = d.getLsbD 0 := by
    cases hc : c.getLsbD 0 <;> cases hd : d.getLsbD 0 <;>
      simp only [hc, hd, BitVec.getLsbD_xor, BitVec.getLsbD_ushiftRight, if_true, if_false, Bool.false_eq_true] at h15 ⊢
    · exact absurd h15 (by simp)
    · exact absurd h15 (by simp)
  apply BitVec.eq_of_getLsbD_eq
  intro i hi
  cases i with
  | zero => exact h0
  | succ i => exact key i (by omega)

theorem repeat_injective {f : Word → Word} (hf : Function.Injective f) (n : Nat) :
    Function.Injective (Nat.repeat f n) := by
  induction n with
  | zero => exact fun _ _ h => h
  | succ n ih => exact fun a b h => ih (hf h)

/-- One byte of the CRC loop is one to one in the register. -/
theorem crcByte_injective_register (b : Byte) : Function.Injective fun c => crcByte c b := by
  intro c d h
  have := repeat_injective crcBit_injective 8 h
  exact BitVec.xor_left_inj (b.setWidth 16) |>.1 this

/-- One byte of the CRC loop is one to one in the byte. -/
theorem crcByte_injective_byte (c : Word) : Function.Injective (crcByte c) := by
  intro a b h
  have h1 : a.setWidth 16 = b.setWidth 16 := (BitVec.xor_right_inj c).1 (repeat_injective crcBit_injective 8 h)
  have h2 := congrArg (BitVec.setWidth 8) h1
  simpa using h2

/-- Registers that differ stay different over the same bytes. -/
theorem foldl_crcByte_injective (bs : List Byte) : Function.Injective fun c => bs.foldl crcByte c := by
  induction bs with
  | nil => exact fun _ _ h => h
  | cons b bs ih => exact fun c d h => crcByte_injective_register b (ih h)

theorem checksum_injective {f g : List Byte} (h : checksum f = checksum g) : crcReg f = crcReg g := by
  have h1 := congrArg hi h
  have h2 := congrArg lo h
  simp only [checksum, hi_be, lo_be] at h1 h2
  rw [← be_hi_lo (crcReg f), ← be_hi_lo (crcReg g), h1, h2]

/-- A register whose low byte equals the byte coming in is only shifted down. -/
theorem crcByte_lo (c : Word) : crcByte c (lo c) = (hi c).setWidth 16 := by
  have hlow : ∀ i, i < 8 → (c ^^^ (lo c).setWidth 16).getLsbD i = false := by
    intro i hi; simp [lo, hi, show i < 16 by omega]
  have hhigh : ∀ i, (c ^^^ (lo c).setWidth 16).getLsbD (8 + i) = c.getLsbD (8 + i) := by
    intro i; simp [lo]
  have step : ∀ n, n ≤ 8 → Nat.repeat crcBit n (c ^^^ (lo c).setWidth 16) = (c ^^^ (lo c).setWidth 16) >>> n := by
    intro n
    induction n with
    | zero => intro _; simp [Nat.repeat]
    | succ n ih =>
      intro hn
      have h0 : ((c ^^^ (lo c).setWidth 16) >>> n).getLsbD 0 = false := by
        rw [BitVec.getLsbD_ushiftRight]; exact hlow _ (by omega)
      rw [Nat.repeat, ih (by omega), crcBit, h0, if_neg (by simp), BitVec.shiftRight_add]
  unfold crcByte
  rw [step 8 (le_refl 8)]
  apply BitVec.eq_of_getLsbD_eq
  intro i hi16
  rw [BitVec.getLsbD_ushiftRight, hhigh]
  simp only [hi, BitVec.getLsbD_setWidth, BitVec.getLsbD_extractLsb', hi16, decide_true, Bool.true_and]
  by_cases h : i < 8
  · simp [h]
  · simp [h]; exact BitVec.getLsbD_of_ge _ _ (by omega)

/-- The CRC register over a frame that carries its own checksum is 0 (R124). -/
theorem crcReg_withChecksum (body : List Byte) : crcReg (withChecksum body) = 0 := by
  have h : crcReg (withChecksum body) = crcByte (crcByte (crcReg body) (lo (crcReg body))) (hi (crcReg body)) := by
    simp [crcReg, withChecksum, checksumBytes, checksum, List.foldl_append]
  rw [h, crcByte_lo]
  have h2 : (hi (crcReg body)) = lo ((hi (crcReg body)).setWidth 16) := by simp [lo]
  conv_lhs => rw [h2, show lo ((hi (crcReg body)).setWidth 16) = hi (crcReg body) from h2.symm]
  have h3 := crcByte_lo ((hi (crcReg body)).setWidth 16)
  rw [← h2] at h3
  rw [h3]
  apply BitVec.eq_of_getLsbD_eq
  intro i _
  simp [getLsbD_hi]

end Sys2Proof.Machine
end

