-- ==== Sys2Proof/Laws/Decode.lean ====
section
/-! SUPPORT. The decoder and the encoder (30_encoding.md): which payloads a function byte accepts, what it rejects, and
the shape of an encoded request. -/

namespace Sys2Proof

open Machine

/-- Split a captured frame of at least 4 bytes into address byte, function byte, payload and checksum (R70). -/
theorem frame_split {f : List Byte} (h : 4 ≤ f.length) :
    ∃ a fc p c d, f = a :: fc :: (p ++ [c, d]) ∧ f.length = p.length + 4 ∧ byteAt f 0 = a ∧ byteAt f 1 = fc := by
  match f, h with
  | a :: fc :: rest, h =>
    have hr : 2 ≤ rest.length := by simpa using h
    have hlen : (rest.drop (rest.length - 2)).length = 2 := by simp; omega
    obtain ⟨c, d, hcd⟩ := List.length_eq_two.1 hlen
    refine ⟨a, fc, rest.take (rest.length - 2), c, d, ?_, ?_, rfl, rfl⟩
    · rw [← hcd, List.take_append_drop]
    · simp; omega

theorem verify_split (a fc : Byte) (p : List Byte) (c d : Byte) :
    verify (a :: fc :: (p ++ [c, d])) = (checksum (a :: fc :: p) == be c d) := by
  have hl : (a :: fc :: (p ++ [c, d])).length - 2 = p.length + 2 := by simp
  have e : a :: fc :: (p ++ [c, d]) = (a :: fc :: p) ++ [c, d] := rfl
  have hc : byteAt (a :: fc :: (p ++ [c, d])) (p.length + 2) = c := by
    rw [e]; exact byteAt_append_right (a :: fc :: p) [c, d] 0
  have hd : byteAt (a :: fc :: (p ++ [c, d])) (p.length + 3) = d := by
    rw [e]; exact byteAt_append_right (a :: fc :: p) [c, d] 1
  have ht : (a :: fc :: (p ++ [c, d])).take (p.length + 2) = a :: fc :: p := by
    rw [e, show p.length + 2 = (a :: fc :: p).length from rfl]; exact List.take_left
  rw [verify, hl, ht, be16, hc, hd]

/-- A frame of at least 4 bytes whose checksum verifies is its body with the checksum appended. -/
theorem eq_withChecksum_of_verify {a fc : Byte} {p : List Byte} {c d : Byte}
    (h : verify (a :: fc :: (p ++ [c, d])) = true) : a :: fc :: (p ++ [c, d]) = withChecksum (a :: fc :: p) := by
  rw [verify_split, beq_iff_eq] at h
  simp [withChecksum, checksumBytes, h]

/-- Every decoded frame is some body with its checksum appended, and what it decodes to is read from that body. -/
theorem decode_cases (f : List Byte) :
    (f.length < 4 ∧ decode f = .rejected .shortFrame) ∨
    (4 ≤ f.length ∧ verify f = false ∧ decode f = .rejected .badChecksum) ∨
    (4 ≤ f.length ∧ verify f = true ∧ ∃ a fc p, f = withChecksum (a :: fc :: p) ∧ byteAt f 0 = a ∧ byteAt f 1 = fc ∧
      f.length = p.length + 4 ∧ decode f = decodePayload fc p) := by
  by_cases h : f.length < 4
  · exact .inl ⟨h, by rw [decode, if_pos h]⟩
  · have h4 : 4 ≤ f.length := by omega
    cases hv : verify f with
    | false => exact .inr (.inl ⟨h4, rfl, by rw [decode, if_neg h, hv]; rfl⟩)
    | true =>
      obtain ⟨a, fc, p, c, d, rfl, hl, ha, hfc⟩ := frame_split h4
      have hw := eq_withChecksum_of_verify hv
      refine .inr (.inr ⟨h4, rfl, a, fc, p, hw, ha, hfc, hl, ?_⟩)
      rw [hw, decode_withChecksum]

theorem contains_functionCodes (fc : Byte) :
    functionCodes.contains fc = decide (fc.toNat ∈ [1, 2, 3, 4, 5, 6, 15, 16, 17, 21]) := by
  revert fc; decide

/-- A function byte outside the whitelist decodes to ILLEGAL, whatever the payload (R84). -/
theorem decodePayload_illegal {fc : Byte} (h : functionCodes.contains fc = false) (p : List Byte) :
    decodePayload fc p = .instr (.illegal fc p) := by
  have hc := contains_functionCodes fc
  rw [h] at hc
  unfold decodePayload
  split
  all_goals first
    | (rename_i heq; rw [heq] at hc; exact absurd hc (by decide))
    | (rw [h]; rfl)

end Sys2Proof
end

