-- ==== Sys2Proof/Laws/State.lean ====
section
/-! SUPPORT. One lemma per field per update of State: what each named operation writes, and that it keeps every other
field. The primitive updates by rfl, the composed ones through them; later proofs cite them (through simp) and unfold
no record update. -/

namespace Sys2Proof.Machine

variable (s : State)

@[simp] theorem length_frameBytes (k : Nat) : (Config.frameBytes k).length = 140 := by simp [Config.frameBytes]

/-! ### countRx -/

@[simp] theorem countRx_map : s.countRx.map = s.map := rfl
@[simp] theorem countRx_slaveId : s.countRx.slaveId = s.slaveId := rfl
@[simp] theorem countRx_buf : s.countRx.buf = s.buf := rfl
@[simp] theorem countRx_frameLen : s.countRx.frameLen = s.frameLen := rfl
@[simp] theorem countRx_lastCount : s.countRx.lastCount = s.lastCount := rfl
@[simp] theorem countRx_deadline : s.countRx.deadline = s.deadline := rfl
@[simp] theorem countRx_wdDeadline : s.countRx.wdDeadline = s.wdDeadline := rfl
@[simp] theorem countRx_rxCnt : s.countRx.rxCnt = s.rxCnt + 1 := rfl
@[simp] theorem countRx_txCnt : s.countRx.txCnt = s.txCnt := rfl
@[simp] theorem countRx_errCnt : s.countRx.errCnt = s.errCnt := rfl
@[simp] theorem countRx_cmd : s.countRx.cmd = s.cmd := rfl
@[simp] theorem countRx_nv : s.countRx.nv = s.nv := rfl
@[simp] theorem countRx_rxq : s.countRx.rxq = s.rxq := rfl
@[simp] theorem countRx_tx : s.countRx.tx = s.tx := rfl
@[simp] theorem countRx_outcome : s.countRx.outcome = s.outcome := rfl
@[simp] theorem countRx_now : s.countRx.now = s.now := rfl
@[simp] theorem countRx_cfg : s.countRx.cfg = s.cfg := rfl
@[simp] theorem countRx_freeIdx : s.countRx.freeIdx = s.freeIdx := rfl
@[simp] theorem countRx_schedule : s.countRx.schedule = s.schedule := rfl

/-! ### countTx -/

@[simp] theorem countTx_map : s.countTx.map = s.map := rfl
@[simp] theorem countTx_slaveId : s.countTx.slaveId = s.slaveId := rfl
@[simp] theorem countTx_buf : s.countTx.buf = s.buf := rfl
@[simp] theorem countTx_frameLen : s.countTx.frameLen = s.frameLen := rfl
@[simp] theorem countTx_lastCount : s.countTx.lastCount = s.lastCount := rfl
@[simp] theorem countTx_deadline : s.countTx.deadline = s.deadline := rfl
@[simp] theorem countTx_wdDeadline : s.countTx.wdDeadline = s.wdDeadline := rfl
@[simp] theorem countTx_rxCnt : s.countTx.rxCnt = s.rxCnt := rfl
@[simp] theorem countTx_txCnt : s.countTx.txCnt = s.txCnt + 1 := rfl
@[simp] theorem countTx_errCnt : s.countTx.errCnt = s.errCnt := rfl
@[simp] theorem countTx_cmd : s.countTx.cmd = s.cmd := rfl
@[simp] theorem countTx_nv : s.countTx.nv = s.nv := rfl
@[simp] theorem countTx_rxq : s.countTx.rxq = s.rxq := rfl
@[simp] theorem countTx_tx : s.countTx.tx = s.tx := rfl
@[simp] theorem countTx_outcome : s.countTx.outcome = s.outcome := rfl
@[simp] theorem countTx_now : s.countTx.now = s.now := rfl
@[simp] theorem countTx_cfg : s.countTx.cfg = s.cfg := rfl
@[simp] theorem countTx_freeIdx : s.countTx.freeIdx = s.freeIdx := rfl
@[simp] theorem countTx_schedule : s.countTx.schedule = s.schedule := rfl

/-! ### countErr -/

@[simp] theorem countErr_map : s.countErr.map = s.map := rfl
@[simp] theorem countErr_slaveId : s.countErr.slaveId = s.slaveId := rfl
@[simp] theorem countErr_buf : s.countErr.buf = s.buf := rfl
@[simp] theorem countErr_frameLen : s.countErr.frameLen = s.frameLen := rfl
@[simp] theorem countErr_lastCount : s.countErr.lastCount = s.lastCount := rfl
@[simp] theorem countErr_deadline : s.countErr.deadline = s.deadline := rfl
@[simp] theorem countErr_wdDeadline : s.countErr.wdDeadline = s.wdDeadline := rfl
@[simp] theorem countErr_rxCnt : s.countErr.rxCnt = s.rxCnt := rfl
@[simp] theorem countErr_txCnt : s.countErr.txCnt = s.txCnt := rfl
@[simp] theorem countErr_errCnt : s.countErr.errCnt = s.errCnt + 1 := rfl
@[simp] theorem countErr_cmd : s.countErr.cmd = s.cmd := rfl
@[simp] theorem countErr_nv : s.countErr.nv = s.nv := rfl
@[simp] theorem countErr_rxq : s.countErr.rxq = s.rxq := rfl
@[simp] theorem countErr_tx : s.countErr.tx = s.tx := rfl
@[simp] theorem countErr_outcome : s.countErr.outcome = s.outcome := rfl
@[simp] theorem countErr_now : s.countErr.now = s.now := rfl
@[simp] theorem countErr_cfg : s.countErr.cfg = s.cfg := rfl
@[simp] theorem countErr_freeIdx : s.countErr.freeIdx = s.freeIdx := rfl
@[simp] theorem countErr_schedule : s.countErr.schedule = s.schedule := rfl

/-! ### report -/

@[simp] theorem report_map (o : PollOutcome) : (s.report o).map = s.map := rfl
@[simp] theorem report_slaveId (o : PollOutcome) : (s.report o).slaveId = s.slaveId := rfl
@[simp] theorem report_buf (o : PollOutcome) : (s.report o).buf = s.buf := rfl
@[simp] theorem report_frameLen (o : PollOutcome) : (s.report o).frameLen = s.frameLen := rfl
@[simp] theorem report_lastCount (o : PollOutcome) : (s.report o).lastCount = s.lastCount := rfl
@[simp] theorem report_deadline (o : PollOutcome) : (s.report o).deadline = s.deadline := rfl
@[simp] theorem report_wdDeadline (o : PollOutcome) : (s.report o).wdDeadline = s.wdDeadline := rfl
@[simp] theorem report_rxCnt (o : PollOutcome) : (s.report o).rxCnt = s.rxCnt := rfl
@[simp] theorem report_txCnt (o : PollOutcome) : (s.report o).txCnt = s.txCnt := rfl
@[simp] theorem report_errCnt (o : PollOutcome) : (s.report o).errCnt = s.errCnt := rfl
@[simp] theorem report_cmd (o : PollOutcome) : (s.report o).cmd = s.cmd := rfl
@[simp] theorem report_nv (o : PollOutcome) : (s.report o).nv = s.nv := rfl
@[simp] theorem report_rxq (o : PollOutcome) : (s.report o).rxq = s.rxq := rfl
@[simp] theorem report_tx (o : PollOutcome) : (s.report o).tx = s.tx := rfl
@[simp] theorem report_outcome (o : PollOutcome) : (s.report o).outcome = some o := rfl
@[simp] theorem report_now (o : PollOutcome) : (s.report o).now = s.now := rfl
@[simp] theorem report_cfg (o : PollOutcome) : (s.report o).cfg = s.cfg := rfl
@[simp] theorem report_freeIdx (o : PollOutcome) : (s.report o).freeIdx = s.freeIdx := rfl
@[simp] theorem report_schedule (o : PollOutcome) : (s.report o).schedule = s.schedule := rfl

/-! ### writeF -/

@[simp] theorem writeF_map (i : Nat) (bs : List Byte) : (s.writeF i bs).map = s.map := rfl
@[simp] theorem writeF_slaveId (i : Nat) (bs : List Byte) : (s.writeF i bs).slaveId = s.slaveId := rfl
@[simp] theorem writeF_buf (i : Nat) (bs : List Byte) : (s.writeF i bs).buf = overwrite s.buf i bs := rfl
@[simp] theorem writeF_frameLen (i : Nat) (bs : List Byte) : (s.writeF i bs).frameLen = s.frameLen := rfl
@[simp] theorem writeF_lastCount (i : Nat) (bs : List Byte) : (s.writeF i bs).lastCount = s.lastCount := rfl
@[simp] theorem writeF_deadline (i : Nat) (bs : List Byte) : (s.writeF i bs).deadline = s.deadline := rfl
@[simp] theorem writeF_wdDeadline (i : Nat) (bs : List Byte) : (s.writeF i bs).wdDeadline = s.wdDeadline := rfl
@[simp] theorem writeF_rxCnt (i : Nat) (bs : List Byte) : (s.writeF i bs).rxCnt = s.rxCnt := rfl
@[simp] theorem writeF_txCnt (i : Nat) (bs : List Byte) : (s.writeF i bs).txCnt = s.txCnt := rfl
@[simp] theorem writeF_errCnt (i : Nat) (bs : List Byte) : (s.writeF i bs).errCnt = s.errCnt := rfl
@[simp] theorem writeF_cmd (i : Nat) (bs : List Byte) : (s.writeF i bs).cmd = s.cmd := rfl
@[simp] theorem writeF_nv (i : Nat) (bs : List Byte) : (s.writeF i bs).nv = s.nv := rfl
@[simp] theorem writeF_rxq (i : Nat) (bs : List Byte) : (s.writeF i bs).rxq = s.rxq := rfl
@[simp] theorem writeF_tx (i : Nat) (bs : List Byte) : (s.writeF i bs).tx = s.tx := rfl
@[simp] theorem writeF_outcome (i : Nat) (bs : List Byte) : (s.writeF i bs).outcome = s.outcome := rfl
@[simp] theorem writeF_now (i : Nat) (bs : List Byte) : (s.writeF i bs).now = s.now := rfl
@[simp] theorem writeF_cfg (i : Nat) (bs : List Byte) : (s.writeF i bs).cfg = s.cfg := rfl
@[simp] theorem writeF_freeIdx (i : Nat) (bs : List Byte) : (s.writeF i bs).freeIdx = s.freeIdx := rfl
@[simp] theorem writeF_schedule (i : Nat) (bs : List Byte) : (s.writeF i bs).schedule = s.schedule := rfl

/-! ### setFrameLen -/

@[simp] theorem setFrameLen_map (n : Nat) : (s.setFrameLen n).map = s.map := rfl
@[simp] theorem setFrameLen_slaveId (n : Nat) : (s.setFrameLen n).slaveId = s.slaveId := rfl
@[simp] theorem setFrameLen_buf (n : Nat) : (s.setFrameLen n).buf = s.buf := rfl
@[simp] theorem setFrameLen_frameLen (n : Nat) : (s.setFrameLen n).frameLen = n := rfl
@[simp] theorem setFrameLen_lastCount (n : Nat) : (s.setFrameLen n).lastCount = s.lastCount := rfl
@[simp] theorem setFrameLen_deadline (n : Nat) : (s.setFrameLen n).deadline = s.deadline := rfl
@[simp] theorem setFrameLen_wdDeadline (n : Nat) : (s.setFrameLen n).wdDeadline = s.wdDeadline := rfl
@[simp] theorem setFrameLen_rxCnt (n : Nat) : (s.setFrameLen n).rxCnt = s.rxCnt := rfl
@[simp] theorem setFrameLen_txCnt (n : Nat) : (s.setFrameLen n).txCnt = s.txCnt := rfl
@[simp] theorem setFrameLen_errCnt (n : Nat) : (s.setFrameLen n).errCnt = s.errCnt := rfl
@[simp] theorem setFrameLen_cmd (n : Nat) : (s.setFrameLen n).cmd = s.cmd := rfl
@[simp] theorem setFrameLen_nv (n : Nat) : (s.setFrameLen n).nv = s.nv := rfl
@[simp] theorem setFrameLen_rxq (n : Nat) : (s.setFrameLen n).rxq = s.rxq := rfl
@[simp] theorem setFrameLen_tx (n : Nat) : (s.setFrameLen n).tx = s.tx := rfl
@[simp] theorem setFrameLen_outcome (n : Nat) : (s.setFrameLen n).outcome = s.outcome := rfl
@[simp] theorem setFrameLen_now (n : Nat) : (s.setFrameLen n).now = s.now := rfl
@[simp] theorem setFrameLen_cfg (n : Nat) : (s.setFrameLen n).cfg = s.cfg := rfl
@[simp] theorem setFrameLen_freeIdx (n : Nat) : (s.setFrameLen n).freeIdx = s.freeIdx := rfl
@[simp] theorem setFrameLen_schedule (n : Nat) : (s.setFrameLen n).schedule = s.schedule := rfl

/-! ### setCmd -/

@[simp] theorem setCmd_map (fc : Byte) (a n : Nat) : (s.setCmd fc a n).map = s.map := rfl
@[simp] theorem setCmd_slaveId (fc : Byte) (a n : Nat) : (s.setCmd fc a n).slaveId = s.slaveId := rfl
@[simp] theorem setCmd_buf (fc : Byte) (a n : Nat) : (s.setCmd fc a n).buf = s.buf := rfl
@[simp] theorem setCmd_frameLen (fc : Byte) (a n : Nat) : (s.setCmd fc a n).frameLen = s.frameLen := rfl
@[simp] theorem setCmd_lastCount (fc : Byte) (a n : Nat) : (s.setCmd fc a n).lastCount = s.lastCount := rfl
@[simp] theorem setCmd_deadline (fc : Byte) (a n : Nat) : (s.setCmd fc a n).deadline = s.deadline := rfl
@[simp] theorem setCmd_wdDeadline (fc : Byte) (a n : Nat) : (s.setCmd fc a n).wdDeadline = s.wdDeadline := rfl
@[simp] theorem setCmd_rxCnt (fc : Byte) (a n : Nat) : (s.setCmd fc a n).rxCnt = s.rxCnt := rfl
@[simp] theorem setCmd_txCnt (fc : Byte) (a n : Nat) : (s.setCmd fc a n).txCnt = s.txCnt := rfl
@[simp] theorem setCmd_errCnt (fc : Byte) (a n : Nat) : (s.setCmd fc a n).errCnt = s.errCnt := rfl
@[simp] theorem setCmd_cmd (fc : Byte) (a n : Nat) : (s.setCmd fc a n).cmd = ⟨fc, BitVec.ofNat 32 a, BitVec.ofNat 32 n⟩ := rfl
@[simp] theorem setCmd_nv (fc : Byte) (a n : Nat) : (s.setCmd fc a n).nv = s.nv := rfl
@[simp] theorem setCmd_rxq (fc : Byte) (a n : Nat) : (s.setCmd fc a n).rxq = s.rxq := rfl
@[simp] theorem setCmd_tx (fc : Byte) (a n : Nat) : (s.setCmd fc a n).tx = s.tx := rfl
@[simp] theorem setCmd_outcome (fc : Byte) (a n : Nat) : (s.setCmd fc a n).outcome = s.outcome := rfl
@[simp] theorem setCmd_now (fc : Byte) (a n : Nat) : (s.setCmd fc a n).now = s.now := rfl
@[simp] theorem setCmd_cfg (fc : Byte) (a n : Nat) : (s.setCmd fc a n).cfg = s.cfg := rfl
@[simp] theorem setCmd_freeIdx (fc : Byte) (a n : Nat) : (s.setCmd fc a n).freeIdx = s.freeIdx := rfl
@[simp] theorem setCmd_schedule (fc : Byte) (a n : Nat) : (s.setCmd fc a n).schedule = s.schedule := rfl

/-! ### armWatchdog -/

@[simp] theorem armWatchdog_map : s.armWatchdog.map = s.map := rfl
@[simp] theorem armWatchdog_slaveId : s.armWatchdog.slaveId = s.slaveId := rfl
@[simp] theorem armWatchdog_buf : s.armWatchdog.buf = s.buf := rfl
@[simp] theorem armWatchdog_frameLen : s.armWatchdog.frameLen = s.frameLen := rfl
@[simp] theorem armWatchdog_lastCount : s.armWatchdog.lastCount = s.lastCount := rfl
@[simp] theorem armWatchdog_deadline : s.armWatchdog.deadline = s.deadline := rfl
@[simp] theorem armWatchdog_wdDeadline : s.armWatchdog.wdDeadline = s.now + BitVec.ofNat 64 s.cfg.wdTimeout := rfl
@[simp] theorem armWatchdog_rxCnt : s.armWatchdog.rxCnt = s.rxCnt := rfl
@[simp] theorem armWatchdog_txCnt : s.armWatchdog.txCnt = s.txCnt := rfl
@[simp] theorem armWatchdog_errCnt : s.armWatchdog.errCnt = s.errCnt := rfl
@[simp] theorem armWatchdog_cmd : s.armWatchdog.cmd = s.cmd := rfl
@[simp] theorem armWatchdog_nv : s.armWatchdog.nv = s.nv := rfl
@[simp] theorem armWatchdog_rxq : s.armWatchdog.rxq = s.rxq := rfl
@[simp] theorem armWatchdog_tx : s.armWatchdog.tx = s.tx := rfl
@[simp] theorem armWatchdog_outcome : s.armWatchdog.outcome = s.outcome := rfl
@[simp] theorem armWatchdog_now : s.armWatchdog.now = s.now := rfl
@[simp] theorem armWatchdog_cfg : s.armWatchdog.cfg = s.cfg := rfl
@[simp] theorem armWatchdog_freeIdx : s.armWatchdog.freeIdx = s.freeIdx := rfl
@[simp] theorem armWatchdog_schedule : s.armWatchdog.schedule = s.schedule := rfl

/-! ### setCo -/

@[simp] theorem setCo_map (w : Word) : (s.setCo w).map = { s.map with co := w } := rfl
@[simp] theorem setCo_slaveId (w : Word) : (s.setCo w).slaveId = s.slaveId := rfl
@[simp] theorem setCo_buf (w : Word) : (s.setCo w).buf = s.buf := rfl
@[simp] theorem setCo_frameLen (w : Word) : (s.setCo w).frameLen = s.frameLen := rfl
@[simp] theorem setCo_lastCount (w : Word) : (s.setCo w).lastCount = s.lastCount := rfl
@[simp] theorem setCo_deadline (w : Word) : (s.setCo w).deadline = s.deadline := rfl
@[simp] theorem setCo_wdDeadline (w : Word) : (s.setCo w).wdDeadline = s.wdDeadline := rfl
@[simp] theorem setCo_rxCnt (w : Word) : (s.setCo w).rxCnt = s.rxCnt := rfl
@[simp] theorem setCo_txCnt (w : Word) : (s.setCo w).txCnt = s.txCnt := rfl
@[simp] theorem setCo_errCnt (w : Word) : (s.setCo w).errCnt = s.errCnt := rfl
@[simp] theorem setCo_cmd (w : Word) : (s.setCo w).cmd = s.cmd := rfl
@[simp] theorem setCo_nv (w : Word) : (s.setCo w).nv = s.nv := rfl
@[simp] theorem setCo_rxq (w : Word) : (s.setCo w).rxq = s.rxq := rfl
@[simp] theorem setCo_tx (w : Word) : (s.setCo w).tx = s.tx := rfl
@[simp] theorem setCo_outcome (w : Word) : (s.setCo w).outcome = s.outcome := rfl
@[simp] theorem setCo_now (w : Word) : (s.setCo w).now = s.now := rfl
@[simp] theorem setCo_cfg (w : Word) : (s.setCo w).cfg = s.cfg := rfl
@[simp] theorem setCo_freeIdx (w : Word) : (s.setCo w).freeIdx = s.freeIdx := rfl
@[simp] theorem setCo_schedule (w : Word) : (s.setCo w).schedule = s.schedule := rfl

/-! ### setHr -/

@[simp] theorem setHr_map (ws : List Word) : (s.setHr ws).map = { s.map with hr := ws } := rfl
@[simp] theorem setHr_slaveId (ws : List Word) : (s.setHr ws).slaveId = s.slaveId := rfl
@[simp] theorem setHr_buf (ws : List Word) : (s.setHr ws).buf = s.buf := rfl
@[simp] theorem setHr_frameLen (ws : List Word) : (s.setHr ws).frameLen = s.frameLen := rfl
@[simp] theorem setHr_lastCount (ws : List Word) : (s.setHr ws).lastCount = s.lastCount := rfl
@[simp] theorem setHr_deadline (ws : List Word) : (s.setHr ws).deadline = s.deadline := rfl
@[simp] theorem setHr_wdDeadline (ws : List Word) : (s.setHr ws).wdDeadline = s.wdDeadline := rfl
@[simp] theorem setHr_rxCnt (ws : List Word) : (s.setHr ws).rxCnt = s.rxCnt := rfl
@[simp] theorem setHr_txCnt (ws : List Word) : (s.setHr ws).txCnt = s.txCnt := rfl
@[simp] theorem setHr_errCnt (ws : List Word) : (s.setHr ws).errCnt = s.errCnt := rfl
@[simp] theorem setHr_cmd (ws : List Word) : (s.setHr ws).cmd = s.cmd := rfl
@[simp] theorem setHr_nv (ws : List Word) : (s.setHr ws).nv = s.nv := rfl
@[simp] theorem setHr_rxq (ws : List Word) : (s.setHr ws).rxq = s.rxq := rfl
@[simp] theorem setHr_tx (ws : List Word) : (s.setHr ws).tx = s.tx := rfl
@[simp] theorem setHr_outcome (ws : List Word) : (s.setHr ws).outcome = s.outcome := rfl
@[simp] theorem setHr_now (ws : List Word) : (s.setHr ws).now = s.now := rfl
@[simp] theorem setHr_cfg (ws : List Word) : (s.setHr ws).cfg = s.cfg := rfl
@[simp] theorem setHr_freeIdx (ws : List Word) : (s.setHr ws).freeIdx = s.freeIdx := rfl
@[simp] theorem setHr_schedule (ws : List Word) : (s.setHr ws).schedule = s.schedule := rfl

/-! ### setNv -/

@[simp] theorem setNv_map (m : Memory) : (s.setNv m).map = s.map := rfl
@[simp] theorem setNv_slaveId (m : Memory) : (s.setNv m).slaveId = s.slaveId := rfl
@[simp] theorem setNv_buf (m : Memory) : (s.setNv m).buf = s.buf := rfl
@[simp] theorem setNv_frameLen (m : Memory) : (s.setNv m).frameLen = s.frameLen := rfl
@[simp] theorem setNv_lastCount (m : Memory) : (s.setNv m).lastCount = s.lastCount := rfl
@[simp] theorem setNv_deadline (m : Memory) : (s.setNv m).deadline = s.deadline := rfl
@[simp] theorem setNv_wdDeadline (m : Memory) : (s.setNv m).wdDeadline = s.wdDeadline := rfl
@[simp] theorem setNv_rxCnt (m : Memory) : (s.setNv m).rxCnt = s.rxCnt := rfl
@[simp] theorem setNv_txCnt (m : Memory) : (s.setNv m).txCnt = s.txCnt := rfl
@[simp] theorem setNv_errCnt (m : Memory) : (s.setNv m).errCnt = s.errCnt := rfl
@[simp] theorem setNv_cmd (m : Memory) : (s.setNv m).cmd = s.cmd := rfl
@[simp] theorem setNv_nv (m : Memory) : (s.setNv m).nv = m := rfl
@[simp] theorem setNv_rxq (m : Memory) : (s.setNv m).rxq = s.rxq := rfl
@[simp] theorem setNv_tx (m : Memory) : (s.setNv m).tx = s.tx := rfl
@[simp] theorem setNv_outcome (m : Memory) : (s.setNv m).outcome = s.outcome := rfl
@[simp] theorem setNv_now (m : Memory) : (s.setNv m).now = s.now := rfl
@[simp] theorem setNv_cfg (m : Memory) : (s.setNv m).cfg = s.cfg := rfl
@[simp] theorem setNv_freeIdx (m : Memory) : (s.setNv m).freeIdx = s.freeIdx := rfl
@[simp] theorem setNv_schedule (m : Memory) : (s.setNv m).schedule = s.schedule := rfl

/-! ### drawFree -/

@[simp] theorem drawFree_map (n : Nat) : (s.drawFree n).map = s.map := rfl
@[simp] theorem drawFree_slaveId (n : Nat) : (s.drawFree n).slaveId = s.slaveId := rfl
@[simp] theorem drawFree_buf (n : Nat) : (s.drawFree n).buf = s.buf := rfl
@[simp] theorem drawFree_frameLen (n : Nat) : (s.drawFree n).frameLen = s.frameLen := rfl
@[simp] theorem drawFree_lastCount (n : Nat) : (s.drawFree n).lastCount = s.lastCount := rfl
@[simp] theorem drawFree_deadline (n : Nat) : (s.drawFree n).deadline = s.deadline := rfl
@[simp] theorem drawFree_wdDeadline (n : Nat) : (s.drawFree n).wdDeadline = s.wdDeadline := rfl
@[simp] theorem drawFree_rxCnt (n : Nat) : (s.drawFree n).rxCnt = s.rxCnt := rfl
@[simp] theorem drawFree_txCnt (n : Nat) : (s.drawFree n).txCnt = s.txCnt := rfl
@[simp] theorem drawFree_errCnt (n : Nat) : (s.drawFree n).errCnt = s.errCnt := rfl
@[simp] theorem drawFree_cmd (n : Nat) : (s.drawFree n).cmd = s.cmd := rfl
@[simp] theorem drawFree_nv (n : Nat) : (s.drawFree n).nv = s.nv := rfl
@[simp] theorem drawFree_rxq (n : Nat) : (s.drawFree n).rxq = s.rxq := rfl
@[simp] theorem drawFree_tx (n : Nat) : (s.drawFree n).tx = s.tx := rfl
@[simp] theorem drawFree_outcome (n : Nat) : (s.drawFree n).outcome = s.outcome := rfl
@[simp] theorem drawFree_now (n : Nat) : (s.drawFree n).now = s.now := rfl
@[simp] theorem drawFree_cfg (n : Nat) : (s.drawFree n).cfg = s.cfg := rfl
@[simp] theorem drawFree_freeIdx (n : Nat) : (s.drawFree n).freeIdx = s.freeIdx + n := rfl
@[simp] theorem drawFree_schedule (n : Nat) : (s.drawFree n).schedule = s.schedule := rfl

/-! ### txWrite -/

@[simp] theorem txWrite_map (bs : List Byte) : (s.txWrite bs).map = s.map := rfl
@[simp] theorem txWrite_slaveId (bs : List Byte) : (s.txWrite bs).slaveId = s.slaveId := rfl
@[simp] theorem txWrite_buf (bs : List Byte) : (s.txWrite bs).buf = s.buf := rfl
@[simp] theorem txWrite_frameLen (bs : List Byte) : (s.txWrite bs).frameLen = s.frameLen := rfl
@[simp] theorem txWrite_lastCount (bs : List Byte) : (s.txWrite bs).lastCount = s.lastCount := rfl
@[simp] theorem txWrite_deadline (bs : List Byte) : (s.txWrite bs).deadline = s.deadline := rfl
@[simp] theorem txWrite_wdDeadline (bs : List Byte) : (s.txWrite bs).wdDeadline = s.wdDeadline := rfl
@[simp] theorem txWrite_rxCnt (bs : List Byte) : (s.txWrite bs).rxCnt = s.rxCnt := rfl
@[simp] theorem txWrite_txCnt (bs : List Byte) : (s.txWrite bs).txCnt = s.txCnt := rfl
@[simp] theorem txWrite_errCnt (bs : List Byte) : (s.txWrite bs).errCnt = s.errCnt := rfl
@[simp] theorem txWrite_cmd (bs : List Byte) : (s.txWrite bs).cmd = s.cmd := rfl
@[simp] theorem txWrite_nv (bs : List Byte) : (s.txWrite bs).nv = s.nv := rfl
@[simp] theorem txWrite_rxq (bs : List Byte) : (s.txWrite bs).rxq = s.rxq := rfl
@[simp] theorem txWrite_tx (bs : List Byte) : (s.txWrite bs).tx = s.tx ++ [bs] := rfl
@[simp] theorem txWrite_outcome (bs : List Byte) : (s.txWrite bs).outcome = s.outcome := rfl
@[simp] theorem txWrite_now (bs : List Byte) : (s.txWrite bs).now = s.now := rfl
@[simp] theorem txWrite_cfg (bs : List Byte) : (s.txWrite bs).cfg = s.cfg := rfl
@[simp] theorem txWrite_freeIdx (bs : List Byte) : (s.txWrite bs).freeIdx = s.freeIdx := rfl
@[simp] theorem txWrite_schedule (bs : List Byte) : (s.txWrite bs).schedule = s.schedule := rfl

/-! ### send -/

@[simp] theorem send_map : s.send.map = s.map := rfl
@[simp] theorem send_slaveId : s.send.slaveId = s.slaveId := rfl
@[simp] theorem send_buf : s.send.buf = overwrite s.buf s.frameLen (checksumBytes s.frame) := rfl
@[simp] theorem send_frameLen : s.send.frameLen = 0 := rfl
@[simp] theorem send_lastCount : s.send.lastCount = s.lastCount := rfl
@[simp] theorem send_deadline : s.send.deadline = s.deadline := rfl
@[simp] theorem send_wdDeadline : s.send.wdDeadline = s.wdDeadline := rfl
@[simp] theorem send_rxCnt : s.send.rxCnt = s.rxCnt := rfl
@[simp] theorem send_txCnt : s.send.txCnt = s.txCnt + 1 := rfl
@[simp] theorem send_errCnt : s.send.errCnt = s.errCnt := rfl
@[simp] theorem send_cmd : s.send.cmd = s.cmd := rfl
@[simp] theorem send_nv : s.send.nv = s.nv := rfl
@[simp] theorem send_rxq : s.send.rxq = s.rxq := rfl
@[simp] theorem send_tx : s.send.tx = s.tx ++ [(overwrite s.buf s.frameLen (checksumBytes s.frame)).take (s.frameLen + 2)] := rfl
@[simp] theorem send_outcome : s.send.outcome = s.outcome := rfl
@[simp] theorem send_now : s.send.now = s.now := rfl
@[simp] theorem send_cfg : s.send.cfg = s.cfg := rfl
@[simp] theorem send_freeIdx : s.send.freeIdx = s.freeIdx := rfl
@[simp] theorem send_schedule : s.send.schedule = s.schedule := rfl

/-! ### buildException -/

@[simp] theorem buildException_map (c : ExcCode) : (s.buildException c).map = s.map := by simp [State.buildException]
@[simp] theorem buildException_slaveId (c : ExcCode) : (s.buildException c).slaveId = s.slaveId := by simp [State.buildException]
@[simp] theorem buildException_buf (c : ExcCode) : (s.buildException c).buf = overwrite s.buf 1 [byteAt s.buf 1 ||| 0x80, c.toByte] := by simp [State.buildException]
@[simp] theorem buildException_frameLen (c : ExcCode) : (s.buildException c).frameLen = 3 := by simp [State.buildException]
@[simp] theorem buildException_lastCount (c : ExcCode) : (s.buildException c).lastCount = s.lastCount := by simp [State.buildException]
@[simp] theorem buildException_deadline (c : ExcCode) : (s.buildException c).deadline = s.deadline := by simp [State.buildException]
@[simp] theorem buildException_wdDeadline (c : ExcCode) : (s.buildException c).wdDeadline = s.wdDeadline := by simp [State.buildException]
@[simp] theorem buildException_rxCnt (c : ExcCode) : (s.buildException c).rxCnt = s.rxCnt := by simp [State.buildException]
@[simp] theorem buildException_txCnt (c : ExcCode) : (s.buildException c).txCnt = s.txCnt := by simp [State.buildException]
@[simp] theorem buildException_errCnt (c : ExcCode) : (s.buildException c).errCnt = s.errCnt := by simp [State.buildException]
@[simp] theorem buildException_cmd (c : ExcCode) : (s.buildException c).cmd = s.cmd := by simp [State.buildException]
@[simp] theorem buildException_nv (c : ExcCode) : (s.buildException c).nv = s.nv := by simp [State.buildException]
@[simp] theorem buildException_rxq (c : ExcCode) : (s.buildException c).rxq = s.rxq := by simp [State.buildException]
@[simp] theorem buildException_tx (c : ExcCode) : (s.buildException c).tx = s.tx := by simp [State.buildException]
@[simp] theorem buildException_outcome (c : ExcCode) : (s.buildException c).outcome = s.outcome := by simp [State.buildException]
@[simp] theorem buildException_now (c : ExcCode) : (s.buildException c).now = s.now := by simp [State.buildException]
@[simp] theorem buildException_cfg (c : ExcCode) : (s.buildException c).cfg = s.cfg := by simp [State.buildException]
@[simp] theorem buildException_freeIdx (c : ExcCode) : (s.buildException c).freeIdx = s.freeIdx := by simp [State.buildException]
@[simp] theorem buildException_schedule (c : ExcCode) : (s.buildException c).schedule = s.schedule := by simp [State.buildException]

/-! ### takeException -/

@[simp] theorem takeException_map (c : ExcCode) : (s.takeException c).map = s.map := by simp [State.takeException]
@[simp] theorem takeException_slaveId (c : ExcCode) : (s.takeException c).slaveId = s.slaveId := by simp [State.takeException]
@[simp] theorem takeException_frameLen (c : ExcCode) : (s.takeException c).frameLen = 0 := by simp [State.takeException]
@[simp] theorem takeException_lastCount (c : ExcCode) : (s.takeException c).lastCount = s.lastCount := by simp [State.takeException]
@[simp] theorem takeException_deadline (c : ExcCode) : (s.takeException c).deadline = s.deadline := by simp [State.takeException]
@[simp] theorem takeException_wdDeadline (c : ExcCode) : (s.takeException c).wdDeadline = s.wdDeadline := by simp [State.takeException]
@[simp] theorem takeException_rxCnt (c : ExcCode) : (s.takeException c).rxCnt = s.rxCnt := by simp [State.takeException]
@[simp] theorem takeException_txCnt (c : ExcCode) : (s.takeException c).txCnt = s.txCnt + 1 := by simp [State.takeException]
@[simp] theorem takeException_errCnt (c : ExcCode) : (s.takeException c).errCnt = s.errCnt + 1 := by simp [State.takeException]
@[simp] theorem takeException_cmd (c : ExcCode) : (s.takeException c).cmd = s.cmd := by simp [State.takeException]
@[simp] theorem takeException_nv (c : ExcCode) : (s.takeException c).nv = s.nv := by simp [State.takeException]
@[simp] theorem takeException_rxq (c : ExcCode) : (s.takeException c).rxq = s.rxq := by simp [State.takeException]
@[simp] theorem takeException_outcome (c : ExcCode) : (s.takeException c).outcome = some (.exception c) := by simp [State.takeException]
@[simp] theorem takeException_now (c : ExcCode) : (s.takeException c).now = s.now := by simp [State.takeException]
@[simp] theorem takeException_cfg (c : ExcCode) : (s.takeException c).cfg = s.cfg := by simp [State.takeException]
@[simp] theorem takeException_freeIdx (c : ExcCode) : (s.takeException c).freeIdx = s.freeIdx := by simp [State.takeException]
@[simp] theorem takeException_schedule (c : ExcCode) : (s.takeException c).schedule = s.schedule := by simp [State.takeException]

/-! ### respond -/

@[simp] theorem respond_map : s.respond.map = s.map := by simp [State.respond]
@[simp] theorem respond_slaveId : s.respond.slaveId = s.slaveId := by simp [State.respond]
@[simp] theorem respond_frameLen : s.respond.frameLen = 0 := by simp [State.respond]
@[simp] theorem respond_lastCount : s.respond.lastCount = s.lastCount := by simp [State.respond]
@[simp] theorem respond_deadline : s.respond.deadline = s.deadline := by simp [State.respond]
@[simp] theorem respond_wdDeadline : s.respond.wdDeadline = s.wdDeadline := by simp [State.respond]
@[simp] theorem respond_rxCnt : s.respond.rxCnt = s.rxCnt := by simp [State.respond]
@[simp] theorem respond_txCnt : s.respond.txCnt = s.txCnt + 1 := by simp [State.respond]
@[simp] theorem respond_errCnt : s.respond.errCnt = s.errCnt := by simp [State.respond]
@[simp] theorem respond_cmd : s.respond.cmd = s.cmd := by simp [State.respond]
@[simp] theorem respond_nv : s.respond.nv = s.nv := by simp [State.respond]
@[simp] theorem respond_rxq : s.respond.rxq = s.rxq := by simp [State.respond]
@[simp] theorem respond_outcome : s.respond.outcome = some (.done (s.frameLen + 2)) := by simp [State.respond]
@[simp] theorem respond_now : s.respond.now = s.now := by simp [State.respond]
@[simp] theorem respond_cfg : s.respond.cfg = s.cfg := by simp [State.respond]
@[simp] theorem respond_freeIdx : s.respond.freeIdx = s.freeIdx := by simp [State.respond]
@[simp] theorem respond_schedule : s.respond.schedule = s.schedule := by simp [State.respond]

/-! ### dropWithError -/

@[simp] theorem dropWithError_map (o : PollOutcome) : (s.dropWithError o).map = s.map := by simp [State.dropWithError]
@[simp] theorem dropWithError_slaveId (o : PollOutcome) : (s.dropWithError o).slaveId = s.slaveId := by simp [State.dropWithError]
@[simp] theorem dropWithError_buf (o : PollOutcome) : (s.dropWithError o).buf = s.buf := by simp [State.dropWithError]
@[simp] theorem dropWithError_frameLen (o : PollOutcome) : (s.dropWithError o).frameLen = 0 := by simp [State.dropWithError]
@[simp] theorem dropWithError_lastCount (o : PollOutcome) : (s.dropWithError o).lastCount = s.lastCount := by simp [State.dropWithError]
@[simp] theorem dropWithError_deadline (o : PollOutcome) : (s.dropWithError o).deadline = s.deadline := by simp [State.dropWithError]
@[simp] theorem dropWithError_wdDeadline (o : PollOutcome) : (s.dropWithError o).wdDeadline = s.wdDeadline := by simp [State.dropWithError]
@[simp] theorem dropWithError_rxCnt (o : PollOutcome) : (s.dropWithError o).rxCnt = s.rxCnt := by simp [State.dropWithError]
@[simp] theorem dropWithError_txCnt (o : PollOutcome) : (s.dropWithError o).txCnt = s.txCnt := by simp [State.dropWithError]
@[simp] theorem dropWithError_errCnt (o : PollOutcome) : (s.dropWithError o).errCnt = s.errCnt + 1 := by simp [State.dropWithError]
@[simp] theorem dropWithError_cmd (o : PollOutcome) : (s.dropWithError o).cmd = s.cmd := by simp [State.dropWithError]
@[simp] theorem dropWithError_nv (o : PollOutcome) : (s.dropWithError o).nv = s.nv := by simp [State.dropWithError]
@[simp] theorem dropWithError_rxq (o : PollOutcome) : (s.dropWithError o).rxq = s.rxq := by simp [State.dropWithError]
@[simp] theorem dropWithError_tx (o : PollOutcome) : (s.dropWithError o).tx = s.tx := by simp [State.dropWithError]
@[simp] theorem dropWithError_outcome (o : PollOutcome) : (s.dropWithError o).outcome = some o := by simp [State.dropWithError]
@[simp] theorem dropWithError_now (o : PollOutcome) : (s.dropWithError o).now = s.now := by simp [State.dropWithError]
@[simp] theorem dropWithError_cfg (o : PollOutcome) : (s.dropWithError o).cfg = s.cfg := by simp [State.dropWithError]
@[simp] theorem dropWithError_freeIdx (o : PollOutcome) : (s.dropWithError o).freeIdx = s.freeIdx := by simp [State.dropWithError]
@[simp] theorem dropWithError_schedule (o : PollOutcome) : (s.dropWithError o).schedule = s.schedule := by simp [State.dropWithError]

/-! ### powerUp -/

@[simp] theorem powerUp_map : s.powerUp.map = s.map := rfl
@[simp] theorem powerUp_slaveId : s.powerUp.slaveId = s.slaveId := rfl
@[simp] theorem powerUp_buf : s.powerUp.buf = Config.frameBytes s.freeIdx := rfl
@[simp] theorem powerUp_frameLen : s.powerUp.frameLen = 0 := rfl
@[simp] theorem powerUp_lastCount : s.powerUp.lastCount = 0 := rfl
@[simp] theorem powerUp_deadline : s.powerUp.deadline = 0 := rfl
@[simp] theorem powerUp_wdDeadline : s.powerUp.wdDeadline = 0 := rfl
@[simp] theorem powerUp_rxCnt : s.powerUp.rxCnt = 0 := rfl
@[simp] theorem powerUp_txCnt : s.powerUp.txCnt = 0 := rfl
@[simp] theorem powerUp_errCnt : s.powerUp.errCnt = 0 := rfl
@[simp] theorem powerUp_cmd : s.powerUp.cmd = ⟨0, 0, 0⟩ := rfl
@[simp] theorem powerUp_nv : s.powerUp.nv = s.nv := rfl
@[simp] theorem powerUp_rxq : s.powerUp.rxq = s.rxq := rfl
@[simp] theorem powerUp_tx : s.powerUp.tx = s.tx := rfl
@[simp] theorem powerUp_outcome : s.powerUp.outcome = none := rfl
@[simp] theorem powerUp_now : s.powerUp.now = s.now := rfl
@[simp] theorem powerUp_cfg : s.powerUp.cfg = s.cfg := rfl
@[simp] theorem powerUp_freeIdx : s.powerUp.freeIdx = s.freeIdx + 140 := rfl
@[simp] theorem powerUp_schedule : s.powerUp.schedule = s.schedule := rfl

/-! ### enqueue -/

@[simp] theorem enqueue_map (bs : List Byte) : (s.enqueue bs).map = s.map := rfl
@[simp] theorem enqueue_slaveId (bs : List Byte) : (s.enqueue bs).slaveId = s.slaveId := rfl
@[simp] theorem enqueue_buf (bs : List Byte) : (s.enqueue bs).buf = s.buf := rfl
@[simp] theorem enqueue_frameLen (bs : List Byte) : (s.enqueue bs).frameLen = s.frameLen := rfl
@[simp] theorem enqueue_lastCount (bs : List Byte) : (s.enqueue bs).lastCount = s.lastCount := rfl
@[simp] theorem enqueue_deadline (bs : List Byte) : (s.enqueue bs).deadline = s.deadline := rfl
@[simp] theorem enqueue_wdDeadline (bs : List Byte) : (s.enqueue bs).wdDeadline = s.wdDeadline := rfl
@[simp] theorem enqueue_rxCnt (bs : List Byte) : (s.enqueue bs).rxCnt = s.rxCnt := rfl
@[simp] theorem enqueue_txCnt (bs : List Byte) : (s.enqueue bs).txCnt = s.txCnt := rfl
@[simp] theorem enqueue_errCnt (bs : List Byte) : (s.enqueue bs).errCnt = s.errCnt := rfl
@[simp] theorem enqueue_cmd (bs : List Byte) : (s.enqueue bs).cmd = s.cmd := rfl
@[simp] theorem enqueue_nv (bs : List Byte) : (s.enqueue bs).nv = s.nv := rfl
@[simp] theorem enqueue_rxq (bs : List Byte) : (s.enqueue bs).rxq = s.rxq ++ bs := rfl
@[simp] theorem enqueue_tx (bs : List Byte) : (s.enqueue bs).tx = s.tx := rfl
@[simp] theorem enqueue_outcome (bs : List Byte) : (s.enqueue bs).outcome = s.outcome := rfl
@[simp] theorem enqueue_now (bs : List Byte) : (s.enqueue bs).now = s.now := rfl
@[simp] theorem enqueue_cfg (bs : List Byte) : (s.enqueue bs).cfg = s.cfg := rfl
@[simp] theorem enqueue_freeIdx (bs : List Byte) : (s.enqueue bs).freeIdx = s.freeIdx := rfl
@[simp] theorem enqueue_schedule (bs : List Byte) : (s.enqueue bs).schedule = s.schedule := rfl

/-! ### recordCount -/

@[simp] theorem recordCount_map : s.recordCount.map = s.map := rfl
@[simp] theorem recordCount_slaveId : s.recordCount.slaveId = s.slaveId := rfl
@[simp] theorem recordCount_buf : s.recordCount.buf = s.buf := rfl
@[simp] theorem recordCount_frameLen : s.recordCount.frameLen = s.frameLen := rfl
@[simp] theorem recordCount_lastCount : s.recordCount.lastCount = s.rxq.length := rfl
@[simp] theorem recordCount_deadline : s.recordCount.deadline = s.now + BitVec.ofNat 64 t35 := rfl
@[simp] theorem recordCount_wdDeadline : s.recordCount.wdDeadline = s.wdDeadline := rfl
@[simp] theorem recordCount_rxCnt : s.recordCount.rxCnt = s.rxCnt := rfl
@[simp] theorem recordCount_txCnt : s.recordCount.txCnt = s.txCnt := rfl
@[simp] theorem recordCount_errCnt : s.recordCount.errCnt = s.errCnt := rfl
@[simp] theorem recordCount_cmd : s.recordCount.cmd = s.cmd := rfl
@[simp] theorem recordCount_nv : s.recordCount.nv = s.nv := rfl
@[simp] theorem recordCount_rxq : s.recordCount.rxq = s.rxq := rfl
@[simp] theorem recordCount_tx : s.recordCount.tx = s.tx := rfl
@[simp] theorem recordCount_outcome : s.recordCount.outcome = s.outcome := rfl
@[simp] theorem recordCount_now : s.recordCount.now = s.now := rfl
@[simp] theorem recordCount_cfg : s.recordCount.cfg = s.cfg := rfl
@[simp] theorem recordCount_freeIdx : s.recordCount.freeIdx = s.freeIdx := rfl
@[simp] theorem recordCount_schedule : s.recordCount.schedule = s.schedule := rfl

/-! ### drain -/

@[simp] theorem drain_map (late : List Byte) : (s.drain late).map = s.map := rfl
@[simp] theorem drain_slaveId (late : List Byte) : (s.drain late).slaveId = s.slaveId := rfl
@[simp] theorem drain_buf (late : List Byte) : (s.drain late).buf = overwrite s.buf 0 ((s.rxq ++ late).take maxFrame) := rfl
@[simp] theorem drain_frameLen (late : List Byte) : (s.drain late).frameLen = s.frameLen := rfl
@[simp] theorem drain_lastCount (late : List Byte) : (s.drain late).lastCount = 0 := rfl
@[simp] theorem drain_deadline (late : List Byte) : (s.drain late).deadline = s.deadline := rfl
@[simp] theorem drain_wdDeadline (late : List Byte) : (s.drain late).wdDeadline = s.wdDeadline := rfl
@[simp] theorem drain_rxCnt (late : List Byte) : (s.drain late).rxCnt = s.rxCnt + 1 := rfl
@[simp] theorem drain_txCnt (late : List Byte) : (s.drain late).txCnt = s.txCnt := rfl
@[simp] theorem drain_errCnt (late : List Byte) : (s.drain late).errCnt = s.errCnt := rfl
@[simp] theorem drain_cmd (late : List Byte) : (s.drain late).cmd = s.cmd := rfl
@[simp] theorem drain_nv (late : List Byte) : (s.drain late).nv = s.nv := rfl
@[simp] theorem drain_rxq (late : List Byte) : (s.drain late).rxq = [] := rfl
@[simp] theorem drain_tx (late : List Byte) : (s.drain late).tx = s.tx := rfl
@[simp] theorem drain_outcome (late : List Byte) : (s.drain late).outcome = s.outcome := rfl
@[simp] theorem drain_now (late : List Byte) : (s.drain late).now = s.now := rfl
@[simp] theorem drain_cfg (late : List Byte) : (s.drain late).cfg = s.cfg := rfl
@[simp] theorem drain_freeIdx (late : List Byte) : (s.drain late).freeIdx = s.freeIdx := rfl
@[simp] theorem drain_schedule (late : List Byte) : (s.drain late).schedule = s.schedule := rfl

/-- `State.reset` is a machine after power-up (R43): powering the reset machine up again changes only the unspecified
bytes of `F` and the index they are drawn from. -/
theorem powerUp_reset : State.reset.powerUp = { State.reset with buf := Config.frameBytes 140, freeIdx := 280 } := rfl

end Sys2Proof.Machine
end

