-- ==== Sys2Proof/Laws/Frame.lean ====
section
/-! SUPPORT. The RawFrame and the ResponseBuilder (46_response_builder.md): one lemma for each shared operation that
says once everything it does. -/

namespace Sys2Proof.Machine

theorem length_overwrite {f bs : List Byte} {i : Nat} (h : i + bs.length ≤ f.length) :
    (overwrite f i bs).length = f.length := by
  simp [overwrite]; omega

/-- After bytes are written at index `i`, the first `i` bytes are as before and the bytes written follow. -/
theorem take_overwrite {f bs : List Byte} {i : Nat} (h : i ≤ f.length) :
    (overwrite f i bs).take (i + bs.length) = f.take i ++ bs := by
  have h2 : (f.take i ++ bs).length = i + bs.length := by simp; omega
  rw [overwrite, ← h2, List.take_left]

/-- Bytes below the index written at are kept. -/
theorem take_overwrite_below {f bs : List Byte} {i n : Nat} (h : i ≤ f.length) (hn : n ≤ i) :
    (overwrite f i bs).take n = f.take n := by
  rw [overwrite, List.append_assoc, List.take_append_of_le_length (by simp; omega), List.take_take, Nat.min_eq_left hn]

theorem take_two {f : List Byte} (h : 2 ≤ f.length) : f.take 2 = [byteAt f 0, byteAt f 1] := by
  match f, h with
  | a :: b :: r, _ => rfl

theorem take_one {f : List Byte} (h : 1 ≤ f.length) : f.take 1 = [byteAt f 0] := by
  match f, h with
  | a :: r, _ => rfl

/-- `Send()` hands over the frame body with its checksum (R218, R219). -/
theorem send_tx_frame {s : State} (h : s.frameLen ≤ s.buf.length) : s.send.tx = s.tx ++ [withChecksum s.frame] := by
  have := take_overwrite (f := s.buf) (bs := checksumBytes s.frame) h
  rw [length_checksumBytes] at this
  rw [send_tx, this]; rfl

/-- `respond` in one piece: what an answered request leaves. -/
theorem respond_eq {s : State} (h : s.frameLen + 2 ≤ s.buf.length) :
    ∃ b, b.length = s.buf.length ∧ b.take s.frameLen = s.frame ∧
      s.respond = { s with
        buf := b, frameLen := 0, txCnt := s.txCnt + 1, tx := s.tx ++ [withChecksum s.frame]
        outcome := some (.done (s.frameLen + 2)) } := by
  refine ⟨overwrite s.buf s.frameLen (checksumBytes s.frame), length_overwrite (by simpa using h),
    take_overwrite_below (by omega) (le_refl _), ?_⟩
  show State.mk _ _ _ _ _ _ _ _ _ _ _ _ _ s.send.tx _ _ _ _ _ = _
  rw [send_tx_frame (by omega)]
  rfl

/-- Taking an exception in one piece (R100, R216 to R219, R242). -/
theorem takeException_eq {s : State} (c : ExcCode) (h : 5 ≤ s.buf.length) :
    ∃ b, b.length = s.buf.length ∧ s.takeException c = s.excepted c b := by
  have hb : (overwrite s.buf 1 [byteAt s.buf 1 ||| 0x80, c.toByte]).length = s.buf.length :=
    length_overwrite (by simp; omega)
  have hf : (s.countErr.buildException c).frame = [byteAt s.buf 0, byteAt s.buf 1 ||| 0x80, c.toByte] := by
    have := take_overwrite (f := s.buf) (bs := [byteAt s.buf 1 ||| 0x80, c.toByte]) (i := 1) (by omega)
    rw [take_one (by omega)] at this
    simpa [State.frame] using this
  refine ⟨overwrite (s.countErr.buildException c).buf 3 (checksumBytes (s.countErr.buildException c).frame), ?_, ?_⟩
  · rw [length_overwrite] <;> rw [buildException_buf, countErr_buf, hb]
    exact h
  · have hs := send_tx_frame (s := s.countErr.buildException c) (by
      rw [buildException_buf, countErr_buf, hb, buildException_frameLen]; omega)
    rw [hf] at hs
    show State.mk _ _ _ _ _ _ _ _ _ _ _ _ _ (s.countErr.buildException c).send.tx _ _ _ _ _ = _
    rw [hs]
    rfl

theorem dropWithError_eq (s : State) (o : PollOutcome) : s.dropWithError o = s.dropped o := rfl

end Sys2Proof.Machine
end

