-- ==== Sys2Proof/Laws/Memory.lean ====
section
/-! SUPPORT. The laws of the NonVolatileStore (20_memory.md R54, R58): a read after a write gives the value written, a
write leaves every other address alone, and every operation keeps the canonical form and the capacity bound. -/

namespace Sys2Proof.Machine

@[simp] theorem Memory.read_write_same (m : Memory) (a : Nat) (v : Byte) : (m.write a v).read a = some v := by
  induction m with
  | nil => simp [Memory.write, Memory.read]
  | cons c rest ih =>
    obtain ⟨x, w⟩ := c
    unfold Memory.write
    split
    · simp [Memory.read]
    · split
      · simp [Memory.read]
      · rename_i _ hne; simp [Memory.read, hne, ih]

theorem Memory.read_write_other (m : Memory) {a b : Nat} (v : Byte) (h : b ≠ a) :
    (m.write a v).read b = m.read b := by
  induction m with
  | nil => simp [Memory.write, Memory.read, h]
  | cons c rest ih =>
    obtain ⟨x, w⟩ := c
    unfold Memory.write
    split
    · simp [Memory.read, h]
    · split
      · rename_i _ hx; subst hx; simp [Memory.read, h]
      · simp [Memory.read, ih]

theorem Memory.mem_write {m : Memory} {a : Nat} {v : Byte} {c : Host.Cell} (h : c ∈ m.write a v) :
    c = (a, v) ∨ c ∈ m := by
  induction m with
  | nil => simpa [Memory.write] using h
  | cons d rest ih =>
    obtain ⟨x, w⟩ := d
    unfold Memory.write at h
    split at h
    · simpa using h
    · split at h
      · rcases List.mem_cons.1 h with h | h <;> simp [h]
      · rcases List.mem_cons.1 h with h | h
        · simp [h]
        · rcases ih h with h | h <;> simp [h]

/-- A write keeps the canonical form. -/
theorem Memory.wf_write {m : Memory} (h : m.wf) (a : Nat) (v : Byte) : (m.write a v).wf := by
  induction m with
  | nil => simp [Memory.write, Memory.wf]
  | cons c rest ih =>
    obtain ⟨x, w⟩ := c
    obtain ⟨hx, hrest⟩ := List.pairwise_cons.1 h
    unfold Memory.write
    split
    · rename_i hlt
      refine List.pairwise_cons.2 ⟨?_, h⟩
      rintro d hd
      rcases List.mem_cons.1 hd with rfl | hd
      · exact hlt
      · exact Nat.lt_trans hlt (hx d hd)
    · split
      · rename_i _ hxa; subst hxa; exact List.pairwise_cons.2 ⟨hx, hrest⟩
      · rename_i h1 h2
        refine List.pairwise_cons.2 ⟨?_, ih hrest⟩
        intro d hd
        rcases Memory.mem_write hd with rfl | hd
        · show x < a
          omega
        · exact hx d hd

/-- Writing a run of bytes keeps the canonical form. -/
theorem Memory.wf_writeBytes {m : Memory} (h : m.wf) (a : Nat) (bs : List Byte) : (m.writeBytes a bs).wf := by
  induction bs generalizing m a with
  | nil => exact h
  | cons b bs ih => exact ih (Memory.wf_write h a b) (a + 1)

/-- Every entry after a run of writes was there before or lies in the run. -/
theorem Memory.mem_writeBytes {m : Memory} {a : Nat} {bs : List Byte} {c : Host.Cell}
    (h : c ∈ m.writeBytes a bs) : (a ≤ c.1 ∧ c.1 < a + bs.length) ∨ c ∈ m := by
  induction bs generalizing m a with
  | nil => exact .inr h
  | cons b bs ih =>
    rcases ih h with h | h
    · left; simp; omega
    · rcases Memory.mem_write h with rfl | h
      · left; simp
      · exact .inr h

/-- What a byte reads as after a run of writes: the byte of the run that landed there, else what it was. -/
theorem Memory.read_writeBytes (m : Memory) (a : Nat) (bs : List Byte) (x : Nat) :
    (m.writeBytes a bs).read x = if a ≤ x ∧ x < a + bs.length then bs[x - a]? else m.read x := by
  induction bs generalizing m a with
  | nil =>
    have : ¬(a ≤ x ∧ x < a + ([] : List Byte).length) := by simp
    rw [if_neg this]; rfl
  | cons b bs ih =>
    show (Memory.writeBytes (m.write a b) (a + 1) bs).read x = _
    rw [ih]
    by_cases hx : x = a
    · subst hx; simp
    · rw [Memory.read_write_other m b hx]
      by_cases h : a + 1 ≤ x ∧ x < a + 1 + bs.length
      · have h' : a ≤ x ∧ x < a + (b :: bs).length := by simp; omega
        rw [if_pos h, if_pos h', show x - a = (x - (a + 1)) + 1 by omega, List.getElem?_cons_succ]
      · have h' : ¬(a ≤ x ∧ x < a + (b :: bs).length) := by simp; omega
        rw [if_neg h, if_neg h']

/-! ## nvstore_read (R58) -/

@[simp] theorem Memory.nvstoreRead_write_same (m : Memory) (a : Nat) (v : Byte) :
    (m.write a v).nvstoreRead a = v := by simp [Memory.nvstoreRead]

theorem Memory.nvstoreRead_write_other (m : Memory) {a b : Nat} (v : Byte) (h : b ≠ a) :
    (m.write a v).nvstoreRead b = m.nvstoreRead b := by
  rw [Memory.nvstoreRead, Memory.read_write_other m v h, Memory.nvstoreRead]

/-- Where nothing was written, a read answers the free byte. -/
theorem Memory.nvstoreRead_unlisted {m : Memory} {a : Nat} (h : ∀ c ∈ m, c.1 ≠ a) :
    m.nvstoreRead a = Config.nvByte a := by
  induction m with
  | nil => rfl
  | cons c rest ih =>
    obtain ⟨x, w⟩ := c
    have hx : a ≠ x := fun e => h (x, w) (by simp) e.symm
    simpa [Memory.nvstoreRead, Memory.read, hx] using ih fun d hd => h d (by simp [hd])

/-- What a read answers after a run of writes: the byte of the run that landed there, else what it answered before. -/
theorem Memory.nvstoreRead_writeBytes (m : Memory) (a : Nat) (bs : List Byte) (x : Nat) :
    (m.writeBytes a bs).nvstoreRead x =
      if a ≤ x ∧ x < a + bs.length then byteAt bs (x - a) else m.nvstoreRead x := by
  rw [Memory.nvstoreRead, Memory.read_writeBytes]
  split
  · rename_i h
    have hx : x - a < bs.length := by omega
    simp [byteAt, hx]
  · rfl

end Sys2Proof.Machine
end

