-- ==== Sys2Proof/Laws/Registers.lean ====
section
/-! SUPPORT. The register operations (44_register_functions.md): the words a read yields and their bytes on the wire,
and what a run of register writes leaves. -/

namespace Sys2Proof.Machine

@[simp] theorem length_writeRegister (arr : List Word) (len i : Nat) (v : Word) :
    (writeRegister arr len i v).length = arr.length := by
  unfold writeRegister; split <;> simp

/-- A register write changes element `i` alone, and only below the declared count (R181 a). -/
theorem getElem?_writeRegister (arr : List Word) (len i : Nat) (v : Word) (j : Nat) :
    (writeRegister arr len i v)[j]? = if j = i ∧ i < len ∧ i < arr.length then some v else arr[j]? := by
  unfold writeRegister
  split
  · rename_i h
    rw [List.getElem?_set]
    by_cases hji : j = i
    · subst hji
      by_cases hl : j < arr.length
      · simp [h, hl]
      · simp [hl]
    · simp [hji, Ne.symm hji]
  · rename_i h; simp [h]

@[simp] theorem length_writeWords (arr : List Word) (len start nw : Nat) (data : List Byte) :
    (writeWords arr len start nw data).length = arr.length := by
  unfold writeWords
  induction nw with
  | zero => rfl
  | succ n ih => rw [List.range_succ, List.foldl_append]; simpa using ih

/-- The registers after `nw` words from `start` on were written (R187): the data word inside the run and below the
declared count, the old word elsewhere. -/
theorem getElem?_writeWords (arr : List Word) (len start nw : Nat) (data : List Byte) (j : Nat) :
    (writeWords arr len start nw data)[j]? =
      if start ≤ j ∧ j < start + nw ∧ j < len ∧ j < arr.length then some (be16 data (2 * (j - start))) else arr[j]? := by
  induction nw with
  | zero => rw [if_neg (by omega)]; rfl
  | succ n ih =>
    have hw : writeWords arr len start (n + 1) data =
        writeRegister (writeWords arr len start n data) len (start + n) (be16 data (2 * n)) := by
      unfold writeWords; rw [List.range_succ, List.foldl_append]; rfl
    rw [hw, getElem?_writeRegister, length_writeWords, ih]
    by_cases hj : j = start + n
    · subst hj
      by_cases hl : start + n < len ∧ start + n < arr.length
      · rw [if_pos ⟨rfl, hl⟩, if_pos (by omega)]; simp
      · rw [if_neg (by tauto), if_neg (by omega), if_neg (by tauto)]
    · rw [if_neg (by tauto)]
      by_cases hr : start ≤ j ∧ j < start + n ∧ j < len ∧ j < arr.length
      · rw [if_pos hr, if_pos (by omega)]
      · rw [if_neg hr, if_neg (by omega)]

/-- How many words were written: those of the run that lie below the declared count (R187). -/
theorem wordsWritten_eq (len start nw : Nat) : wordsWritten len start nw = min nw (len - start) := by
  unfold wordsWritten
  induction nw with
  | zero => simp
  | succ n ih =>
    rw [List.range_succ, List.countP_append, ih]
    by_cases h : start + n < len <;> simp [h] <;> omega

@[simp] theorem length_readWords (arr : List Word) (len start qty free : Nat) :
    (readWords arr len start qty free).length = qty := by simp [readWords]

theorem getElem?_readWords (arr : List Word) (len start free : Nat) {qty k : Nat} (h : k < qty) :
    (readWords arr len start qty free)[k]? =
      some (readRegister arr len (start + k) (Config.freeWord (free + k))) := by
  simp [readWords, h]

@[simp] theorem length_wordBytes (ws : List Word) : (wordBytes ws).length = 2 * ws.length := by
  induction ws with
  | nil => rfl
  | cons w ws ih =>
    have : wordBytes (w :: ws) = hi w :: lo w :: wordBytes ws := rfl
    rw [this]; simp [ih]; omega

/-- The big-endian word at `2k` of words on the wire is word `k` (R51, R78). -/
theorem be16_wordBytes (ws : List Word) {k : Nat} {w : Word} (h : ws[k]? = some w) : be16 (wordBytes ws) (2 * k) = w := by
  induction ws generalizing k with
  | nil => simp at h
  | cons v ws ih =>
    have hv : wordBytes (v :: ws) = hi v :: lo v :: wordBytes ws := rfl
    cases k with
    | zero => simp at h; subst h; rw [hv]; exact be_hi_lo v
    | succ k =>
      rw [List.getElem?_cons_succ] at h
      rw [← ih h, hv]
      rfl

end Sys2Proof.Machine
end

