-- ==== Sys2Proof/Laws/Exec.lean ====
section
/-! SUPPORT. What each meaning does once its checks have passed, and once for all instructions what `exec` can do: take
an exception, overflow the response, or answer. -/

namespace Sys2Proof.Machine

variable {s : State}

theorem maxFrame_eq : maxFrame = 140 := rfl

/-- `respond` on a state whose frame is `body`. -/
theorem respond_body {t : State} {body : List Byte} (hb : t.buf.length = maxFrame) (hl : t.frameLen = body.length)
    (hm : body.length ≤ 138) (hf : t.frame = body) :
    ∃ b, b.length = maxFrame ∧ b.take body.length = body ∧
      t.respond = { t with
        buf := b, frameLen := 0, txCnt := t.txCnt + 1, tx := t.tx ++ [withChecksum body]
        outcome := some (.done (body.length + 2)) } := by
  obtain ⟨b, h1, h2, h3⟩ := respond_eq (s := t) (by rw [hb, hl, maxFrame_eq]; omega)
  refine ⟨b, h1.trans hb, by rw [← hl, h2, hf], ?_⟩
  rw [h3, hf, hl]

/-- A response written over the request from index 2 on (R78, R80). -/
theorem answers_written {bs : List Byte} (hb : s.buf.length = maxFrame) (hm : bs.length ≤ 136)
    (fc : Byte) (addr count : Nat) :
    s.Answers (s.buf.take 2 ++ bs) ⟨fc, BitVec.ofNat 32 addr, BitVec.ofNat 32 count⟩
      (((s.armWatchdog.writeF 2 bs).setFrameLen (2 + bs.length)).setCmd fc addr count).respond := by
  have hl : (s.buf.take 2 ++ bs).length = 2 + bs.length := by simp [hb, maxFrame_eq]
  have hlen : (overwrite s.buf 2 bs).length = maxFrame := by
    rw [length_overwrite, hb]; rw [hb, maxFrame_eq]; omega
  obtain ⟨b, h1, h2, h3⟩ := respond_body
    (t := ((s.armWatchdog.writeF 2 bs).setFrameLen (2 + bs.length)).setCmd fc addr count)
    (body := s.buf.take 2 ++ bs) hlen hl.symm (by omega)
    (take_overwrite (by rw [armWatchdog_buf, hb, maxFrame_eq]; omega))
  exact ⟨b, h1, h2, h3⟩

/-- A response that echoes the first `n` bytes of the request (R79, R80). -/
theorem answers_echo (hb : s.buf.length = maxFrame) {n : Nat} (hn : n ≤ 138) (fc : Byte) (addr count : Nat) :
    s.Answers (s.buf.take n) ⟨fc, BitVec.ofNat 32 addr, BitVec.ofNat 32 count⟩
      ((s.armWatchdog.setFrameLen n).setCmd fc addr count).respond := by
  have hl : (s.buf.take n).length = n := by simp [hb, maxFrame_eq]; omega
  obtain ⟨b, h1, h2, h3⟩ := respond_body (t := (s.armWatchdog.setFrameLen n).setCmd fc addr count)
    (body := s.buf.take n) hb hl.symm (by omega) rfl
  exact ⟨b, h1, h2, h3⟩

/-- An echo after the coils were written (R163, R164). -/
theorem setCo_answers (hb : s.buf.length = maxFrame) (w : Word) (fc : Byte) (addr count : Nat) :
    ({ s with map := { s.map with co := w } } : State).Answers (s.buf.take 6)
      ⟨fc, BitVec.ofNat 32 addr, BitVec.ofNat 32 count⟩
      ((((s.armWatchdog.setCo w).setFrameLen 6).setCmd fc addr count).respond) :=
  answers_echo (s := s.setCo w) hb (by omega) fc addr count

/-- An echo after the holding registers were written (R185, R187). -/
theorem setHr_answers (hb : s.buf.length = maxFrame) (ws : List Word) (fc : Byte) (addr count : Nat) :
    ({ s with map := { s.map with hr := ws } } : State).Answers (s.buf.take 6)
      ⟨fc, BitVec.ofNat 32 addr, BitVec.ofNat 32 count⟩
      ((((s.armWatchdog.setHr ws).setFrameLen 6).setCmd fc addr count).respond) :=
  answers_echo (s := s.setHr ws) hb (by omega) fc addr count

/-- The short answer after the store was written (R206). -/
theorem setNv_answers (hb : s.buf.length = maxFrame) (m : Memory) (fc : Byte) (addr count : Nat) :
    ({ s with nv := m } : State).Answers (s.buf.take 3) ⟨fc, BitVec.ofNat 32 addr, BitVec.ofNat 32 count⟩
      ((((s.armWatchdog.setNv m).setFrameLen 3).setCmd fc addr count).respond) :=
  answers_echo (s := s.setNv m) hb (by omega) fc addr count

/-- The answer of function 17 (R201). -/
theorem execRptid_answers (hb : s.buf.length = maxFrame) (r : List Byte) :
    ∃ t, execRptid r s = .next t ∧
      s.Answers (s.buf.take 2 ++ (s.cfg.idString.bytes ++ [s.cfg.idTrailer0, s.cfg.idTrailer1]))
        ⟨17, 0, BitVec.ofNat 32 (s.cfg.idString.bytes.length + 2)⟩ t := by
  have hid := s.cfg.idString.bound
  have hl : 2 + (s.cfg.idString.bytes ++ [s.cfg.idTrailer0, s.cfg.idTrailer1]).length =
      4 + s.cfg.idString.bytes.length := by rw [List.length_append, List.length_cons, List.length_singleton]; omega
  have h := answers_written (s := s) (bs := s.cfg.idString.bytes ++ [s.cfg.idTrailer0, s.cfg.idTrailer1]) hb
    (by omega) 17 0 (s.cfg.idString.bytes.length + 2)
  rw [hl] at h
  exact ⟨_, rfl, h⟩

/-- The handler body of functions 1 and 2 (R161, R162). -/
theorem readBits_answers (hb : s.buf.length = maxFrame) (fc : Byte) (w start : Word) {qty : Word} (hq : qty.toNat ≤ 16) :
    s.Answers (s.buf.take 2 ++ BitVec.ofNat 8 (ceilDiv8 qty.toNat) :: packBits w start.toNat qty.toNat)
      ⟨fc, BitVec.ofNat 32 start.toNat, BitVec.ofNat 32 qty.toNat⟩ (readBits fc w start qty s.armWatchdog) := by
  have hl : (BitVec.ofNat 8 (ceilDiv8 qty.toNat) :: packBits w start.toNat qty.toNat).length
      = 1 + ceilDiv8 qty.toNat := by simp; omega
  have h := answers_written (s := s) (bs := BitVec.ofNat 8 (ceilDiv8 qty.toNat) :: packBits w start.toNat qty.toNat)
    hb (by rw [hl, ceilDiv8]; omega) fc start.toNat qty.toNat
  rw [hl, show 2 + (1 + ceilDiv8 qty.toNat) = 3 + ceilDiv8 qty.toNat by omega] at h
  exact h

/-- The handler body of functions 3 and 4 when the response fits (R183, R184). -/
theorem readRegisters_answers (hb : s.buf.length = maxFrame) (fc : Byte) (arr : List Word) (len : Nat) (start : Word)
    {qty : Word} (hq : qty.toNat ≤ 67) :
    ({ s with freeIdx := s.freeIdx + qty.toNat } : State).Answers
      (s.buf.take 2 ++ BitVec.ofNat 8 (2 * qty.toNat) ::
        wordBytes (readWords arr len start.toNat qty.toNat s.freeIdx))
      ⟨fc, BitVec.ofNat 32 start.toNat, BitVec.ofNat 32 qty.toNat⟩
      (readRegisters fc arr len start qty s.armWatchdog) := by
  have hl : (BitVec.ofNat 8 (2 * qty.toNat) :: wordBytes (readWords arr len start.toNat qty.toNat s.freeIdx)).length
      = 1 + 2 * qty.toNat := by simp; omega
  have h := answers_written (s := { s with freeIdx := s.freeIdx + qty.toNat })
    (bs := BitVec.ofNat 8 (2 * qty.toNat) :: wordBytes (readWords arr len start.toNat qty.toNat s.freeIdx))
    hb (by rw [hl]; omega) fc start.toNat qty.toNat
  rw [hl, show 2 + (1 + 2 * qty.toNat) = 3 + 2 * qty.toNat by omega] at h
  rw [readRegisters, if_neg (by rw [maxFrame_eq]; omega)]
  exact h

/-- The handler body of functions 3 and 4 when the response does not fit (R182). -/
theorem readRegisters_overflow (fc : Byte) (arr : List Word) (len : Nat) (start : Word) {qty : Word}
    (hq : 67 < qty.toNat) :
    readRegisters fc arr len start qty s.armWatchdog = s.armWatchdog.dropped .respOverflow := by
  rw [readRegisters, if_pos (by rw [maxFrame_eq]; omega)]
  rfl

/-- Taking an exception, as a relation. -/
theorem takeException_excepts (hb : s.buf.length = maxFrame) (c : ExcCode) : s.Excepts c (s.takeException c) := by
  obtain ⟨b, h1, h2⟩ := takeException_eq (s := s) c (by rw [hb, maxFrame_eq]; omega)
  exact ⟨b, h1.trans hb, h2⟩

/-! ## The checks -/

theorem checkBitRange_eq (start qty : Word) : checkBitRange start qty =
    if 16 < qty.toNat then some .illegalDataValue
    else if 15 < start.toNat ∨ 16 < start.toNat + qty.toNat then some .illegalDataAddress else none := rfl

theorem checkCoilWrite_eq (start : Word) (onoff : Byte) : checkCoilWrite start onoff =
    if onoff ≠ 0x00 ∧ onoff ≠ 0xFF then some .illegalDataValue
    else if 15 < start.toNat then some .illegalDataAddress else none := rfl

theorem checkEndAddress_eq (declared start qty : Nat) : checkEndAddress declared start qty =
    if declared < (start + qty) % 256 then some .illegalDataAddress else none := rfl

theorem checkFileRange_eq (capacity : Nat) (reftype : Byte) (fileno recno reclen : Word) :
    checkFileRange capacity reftype fileno recno reclen =
      if reftype ≠ 6 then some .illegalDataAddress
      else if fileno ≠ 1 then some .illegalDataAddress
      else if capacity < 2 * recno.toNat + 2 * reclen.toNat then some .illegalDataAddress else none := rfl

theorem checkDataLength_ceilDiv8 (present qty : Nat) : checkDataLength present (ceilDiv8 qty) =
    if present < (qty + 7) / 8 then some .illegalDataValue else none := rfl

theorem checkDataLength_doubled (present : Nat) (w : Word) : checkDataLength present (doubled w) =
    if present < 2 * w.toNat then some .illegalDataValue else none := rfl

/-- `max(0, sext_8(F[5]))` from the low byte of the quantity (R81, R187). -/
theorem wordCount_eq (qty : Word) : wordCount qty = if qty.toNat % 256 < 128 then qty.toNat % 256 else 0 := by
  have h : (lo qty).toNat = qty.toNat % 256 := by simp [lo]
  unfold wordCount
  rw [BitVec.toInt_eq_toNat_cond, h]
  split <;> split <;> omega

theorem checkBitRange_none {start qty : Word} (h : checkBitRange start qty = none) :
    qty.toNat ≤ 16 ∧ start.toNat ≤ 15 ∧ start.toNat + qty.toNat ≤ 16 := by
  simp only [checkBitRange, show nBits = 16 from rfl] at h
  split at h
  · simp at h
  · split at h
    · simp at h
    · omega

theorem checkCoilWrite_none {start : Word} {onoff : Byte} (h : checkCoilWrite start onoff = none) :
    (onoff = 0x00 ∨ onoff = 0xFF) ∧ start.toNat ≤ 15 := by
  simp only [checkCoilWrite, show nBits = 16 from rfl] at h
  split at h
  · simp at h
  · rename_i h1
    split at h
    · simp at h
    · exact ⟨by tauto, by omega⟩

theorem checkFileRange_none {cap : Nat} {reftype : Byte} {fileno recno reclen : Word}
    (h : checkFileRange cap reftype fileno recno reclen = none) :
    reftype = 6 ∧ fileno = 1 ∧ doubled recno + doubled reclen ≤ cap := by
  simp only [checkFileRange, show fileRefType = 6 from rfl, show fileNumber = 1 from rfl] at h
  split at h
  · simp at h
  · rename_i h1
    split at h
    · simp at h
    · rename_i h2
      split at h
      · simp at h
      · exact ⟨by tauto, by tauto, by omega⟩

theorem checkDataLength_none {present needed : Nat} (h : checkDataLength present needed = none) : needed ≤ present := by
  simp only [checkDataLength] at h
  split at h
  · simp at h
  · omega

theorem checkEndAddress_none {len start qty : Nat} (h : checkEndAddress len start qty = none) :
    (start + qty) % 256 ≤ len := by
  by_contra hc
  rw [checkEndAddress, end8, if_pos (by omega)] at h
  exact absurd h (by simp)

/-! ## What exec can do -/

/-- The ways a request can end, for a request that keeps `map` and `nv` but for what an accepted request of its
function writes. -/
inductive Ends (s t : State) : Prop where
  /-- an exception: the register map, the store and `cmd` are kept -/
  | exception (c : ExcCode) (h : s.Excepts c t)
  /-- a read too long for the RawFrame: nothing is sent, `cmd` is kept (R182) -/
  | overflow (h : t = s.armWatchdog.dropped .respOverflow)
  /-- an answer: only coils, holding registers below the declared count and store bytes below the capacity changed -/
  | answer (body : List Byte) (cmd : CommandRecord) (co : Word) (hr : List Word) (nv : Memory) (free : Nat)
      (head : body.take 2 = s.buf.take 2) (atLeast : 3 ≤ body.length) (atMost : body.length ≤ 138)
      (hrLength : hr.length = s.map.hr.length) (hrAbove : ∀ j, s.map.holdLen ≤ j → hr[j]? = s.map.hr[j]?)
      (nvWf : s.nv.wf → nv.wf) (nvBelow : ∀ c ∈ nv, c ∈ s.nv ∨ c.1 < s.cfg.nvCapacity)
      (nvAbove : ∀ a, s.cfg.nvCapacity ≤ a → nv.read a = s.nv.read a)
      (h : ({ s with map := { s.map with co := co, hr := hr }, nv := nv, freeIdx := free } : State).Answers body cmd t)

theorem take_two_append {f bs : List Byte} (hb : f.length = maxFrame) : (f.take 2 ++ bs).take 2 = f.take 2 := by
  rw [List.take_append_of_le_length (by simp [hb, maxFrame_eq]), List.take_take]; rfl

theorem length_take_two {f bs : List Byte} (hb : f.length = maxFrame) : (f.take 2 ++ bs).length = 2 + bs.length := by
  simp [hb, maxFrame_eq]

/-- An answer that changes coils and holding registers alone. -/
theorem Ends.of_map (hb : s.buf.length = maxFrame) {t : State} {n : Nat} {cmd : CommandRecord} {co : Word}
    {hr : List Word} (hn : 3 ≤ n) (hn' : n ≤ 138) (hl : hr.length = s.map.hr.length)
    (ha : ∀ j, s.map.holdLen ≤ j → hr[j]? = s.map.hr[j]?)
    (h : ({ s with map := { s.map with co := co, hr := hr } } : State).Answers (s.buf.take n) cmd t) : Ends s t := by
  refine .answer (s.buf.take n) cmd co hr s.nv s.freeIdx ?_ ?_ ?_ hl ha id (fun _ h => .inl h) (fun _ _ => rfl) h
  · rw [List.take_take, Nat.min_eq_left (by omega)]
  · simp [hb, maxFrame_eq]; omega
  · simp; omega

theorem readBits_ends (hb : s.buf.length = maxFrame) (fc : Byte) (w start : Word) {qty : Word} (hq : qty.toNat ≤ 16) :
    Ends s (readBits fc w start qty s.armWatchdog) := by
  refine .answer _ _ s.map.co s.map.hr s.nv s.freeIdx (take_two_append hb) ?_ ?_ rfl (fun _ _ => rfl) id
    (fun _ h => .inl h) (fun _ _ => rfl) (readBits_answers hb fc w start hq) <;>
  · rw [length_take_two hb, List.length_cons, length_packBits, ceilDiv8]; omega

theorem readRegisters_ends (hb : s.buf.length = maxFrame) (fc : Byte) (arr : List Word) (len : Nat) (start qty : Word) :
    Ends s (readRegisters fc arr len start qty s.armWatchdog) := by
  by_cases hq : qty.toNat ≤ 67
  · refine .answer _ _ s.map.co s.map.hr s.nv (s.freeIdx + qty.toNat) (take_two_append hb) ?_ ?_ rfl (fun _ _ => rfl) id
      (fun _ h => .inl h) (fun _ _ => rfl) (readRegisters_answers hb fc arr len start hq) <;>
    · rw [length_take_two hb, List.length_cons, length_wordBytes, length_readWords]; omega
  · exact .overflow (readRegisters_overflow fc arr len start (by omega))

theorem execRptid_ends (hb : s.buf.length = maxFrame) (r : List Byte) : ∃ t, execRptid r s = .next t ∧ Ends s t := by
  have hid := s.cfg.idString.bound
  obtain ⟨t, h1, h2⟩ := execRptid_answers hb r
  refine ⟨t, h1, .answer _ _ s.map.co s.map.hr s.nv s.freeIdx (take_two_append hb) ?_ ?_ rfl (fun _ _ => rfl) id
    (fun _ h => .inl h) (fun _ _ => rfl) h2⟩ <;>
  · rw [length_take_two hb, List.length_append, List.length_cons, List.length_singleton]; omega

theorem execWrfile_ends (hb : s.buf.length = maxFrame) (dlen reftype : Byte) (fileno recno reclen : Word)
    (data : List Byte) : ∃ t, execWrfile dlen reftype fileno recno reclen data s = .next t ∧ Ends s t := by
  unfold execWrfile
  split
  · exact ⟨_, rfl, .exception _ (takeException_excepts hb _)⟩
  · rename_i h
    rw [Option.or_eq_none_iff] at h
    have h1 := checkFileRange_none h.1
    have h2 := checkDataLength_none h.2
    have hl : (data.take (doubled reclen)).length = doubled reclen := by rw [List.length_take]; omega
    refine ⟨_, rfl, .answer (s.buf.take 3) _ s.map.co s.map.hr
      (s.nv.writeBytes (doubled recno) (data.take (doubled reclen))) s.freeIdx (by rw [List.take_take]; rfl)
      (by rw [List.length_take, hb, maxFrame_eq]; omega) (by rw [List.length_take]; omega) rfl (fun _ _ => rfl)
      (fun hw => Memory.wf_writeBytes hw _ _) ?_ ?_ (setNv_answers hb _ _ _ _)⟩
    · intro c hc
      rcases Memory.mem_writeBytes hc with h | h
      · right; omega
      · exact .inl h
    · intro a ha
      rw [Memory.read_writeBytes, if_neg (by omega)]

/-- `exec` always answers a next state, in one of the ways of `Ends` (R46, R237, R238). -/
theorem exec_ends (hb : s.buf.length = maxFrame) (i : Instr) : ∃ t, exec i s = .next t ∧ Ends s t := by
  have exc : ∀ c, Ends s (s.takeException c) := fun c => .exception c (takeException_excepts hb c)
  cases i with
  | rdcoil start qty r =>
    simp only [exec, execRdcoil]
    split
    · exact ⟨_, rfl, exc _⟩
    · rename_i h; exact ⟨_, rfl, readBits_ends hb _ _ _ (checkBitRange_none h).1⟩
  | rddisc start qty r =>
    simp only [exec, execRddisc]
    split
    · exact ⟨_, rfl, exc _⟩
    · rename_i h; exact ⟨_, rfl, readBits_ends hb _ _ _ (checkBitRange_none h).1⟩
  | rdhold start qty r =>
    simp only [exec, execRdhold]
    split
    · exact ⟨_, rfl, exc _⟩
    · exact ⟨_, rfl, readRegisters_ends hb _ _ _ _ _⟩
  | rdinp start qty r =>
    simp only [exec, execRdinp]
    split
    · exact ⟨_, rfl, exc _⟩
    · exact ⟨_, rfl, readRegisters_ends hb _ _ _ _ _⟩
  | wrcoil start onoff ig r =>
    simp only [exec, execWrcoil]
    split
    · exact ⟨_, rfl, exc _⟩
    · exact ⟨_, rfl, .of_map hb (n := 6) (by omega) (by omega) rfl (fun _ _ => rfl) (setCo_answers hb _ _ _ _)⟩
  | wrreg start v r =>
    simp only [exec, execWrreg]
    split
    · exact ⟨_, rfl, exc _⟩
    · refine ⟨_, rfl, .of_map hb (n := 6) (by omega) (by omega) (length_writeRegister _ _ _ _) (fun j hj => ?_)
        (setHr_answers hb _ _ _ _)⟩
      rw [getElem?_writeRegister, if_neg (by omega)]
  | wrmcoil start qty bc data =>
    simp only [exec, execWrmcoil]
    split
    · exact ⟨_, rfl, exc _⟩
    · exact ⟨_, rfl, .of_map hb (n := 6) (by omega) (by omega) rfl (fun _ _ => rfl) (setCo_answers hb _ _ _ _)⟩
  | wrmreg start qty bc data =>
    simp only [exec, execWrmreg]
    split
    · exact ⟨_, rfl, exc _⟩
    · refine ⟨_, rfl, .of_map hb (n := 6) (by omega) (by omega) (length_writeWords _ _ _ _ _) (fun j hj => ?_)
        (setHr_answers hb _ _ _ _)⟩
      rw [getElem?_writeWords, if_neg (by omega)]
  | rptid r => exact execRptid_ends hb r
  | wrfile dlen reftype fileno recno reclen data => exact execWrfile_ends hb dlen reftype fileno recno reclen data
  | illegal fc p => exact ⟨_, rfl, exc _⟩

end Sys2Proof.Machine
end

