-- ==== Sys2Proof/Laws/PerInstr.lean ====
section
/-! SUPPORT. A statement per instruction about the shape of its encoding (30_encoding.md R70, R73 to R77): the frame
has the request's length, its address byte comes first, its function byte second, and its checksum verifies. -/

namespace Sys2Proof.Laws.EncodedShape

open Machine

/-- The shape of the request frame of an instruction, for every address byte. -/
def Statement (i : Instr) : Prop :=
  ∀ id, (encode id i).length = i.requestLength ∧ byteAt (encode id i) 0 = id ∧
    byteAt (encode id i) 1 = i.functionCode ∧ verify (encode id i) = true

theorem of_length {i : Instr} (h : i.payload.length + 4 = i.requestLength) : Statement i := by
  intro id
  refine ⟨?_, rfl, rfl, verify_withChecksum _⟩
  rw [encode, length_withChecksum, ← h]
  rfl

theorem rdcoil (start qty : Word) (surplus : List Byte) : Statement (.rdcoil start qty surplus) :=
  of_length (by simp [Instr.payload, Instr.requestLength]; omega)

theorem rddisc (start qty : Word) (surplus : List Byte) : Statement (.rddisc start qty surplus) :=
  of_length (by simp [Instr.payload, Instr.requestLength]; omega)

theorem rdhold (start qty : Word) (surplus : List Byte) : Statement (.rdhold start qty surplus) :=
  of_length (by simp [Instr.payload, Instr.requestLength]; omega)

theorem rdinp (start qty : Word) (surplus : List Byte) : Statement (.rdinp start qty surplus) :=
  of_length (by simp [Instr.payload, Instr.requestLength]; omega)

theorem wrcoil (start : Word) (onoff ignored : Byte) (surplus : List Byte) :
    Statement (.wrcoil start onoff ignored surplus) :=
  of_length (by simp [Instr.payload, Instr.requestLength]; omega)

theorem wrreg (start value : Word) (surplus : List Byte) : Statement (.wrreg start value surplus) :=
  of_length (by simp [Instr.payload, Instr.requestLength]; omega)

theorem wrmcoil (start qty : Word) (bytecnt : Byte) (data : List Byte) : Statement (.wrmcoil start qty bytecnt data) :=
  of_length (by simp [Instr.payload, Instr.requestLength]; omega)

theorem wrmreg (start qty : Word) (bytecnt : Byte) (data : List Byte) : Statement (.wrmreg start qty bytecnt data) :=
  of_length (by simp [Instr.payload, Instr.requestLength]; omega)

theorem rptid (surplus : List Byte) : Statement (.rptid surplus) :=
  of_length (by simp [Instr.payload, Instr.requestLength]; omega)

theorem wrfile (dlen reftype : Byte) (fileno recno reclen : Word) (data : List Byte) :
    Statement (.wrfile dlen reftype fileno recno reclen data) :=
  of_length (by simp [Instr.payload, Instr.requestLength]; omega)

theorem illegal (fc : Byte) (payload : List Byte) : Statement (.illegal fc payload) :=
  of_length (by simp [Instr.payload, Instr.requestLength]; omega)

end Sys2Proof.Laws.EncodedShape
end

