-- ==== Sys2Proof/Laws/Poll.lean ====
section
/-! SUPPORT. What a step can do (40_poll_and_frame_assembler.md R100): the stages of a Poll, one lemma each, and all of
them together. -/

namespace Sys2Proof.Machine

variable {s : State}

theorem step_eq (s : State) : step s =
    match s.polled.misconfigured with
    | some r => .refused r
    | none => poll s.lateBytes s.polled := rfl

/-! ## What precedes a Poll -/

theorem polled_nil (h : s.schedule = []) : s.polled = s := by simp [State.polled, State.beginPoll, h]

theorem polled_cons {p : PollInput} {rest : List PollInput} (h : s.schedule = p :: rest) :
    s.polled = { s.applyInput p with schedule := rest } := by simp [State.polled, State.beginPoll, h]

/-- Without a power-up before it, only the inputs of a Poll change (R66). -/
theorem polled_of_not_powersUp (h : s.powersUp = false) : s.polled =
    { s with now := s.polled.now, rxq := s.polled.rxq, map := s.polled.map, schedule := s.polled.schedule } := by
  cases hs : s.schedule with
  | nil => rw [polled_nil hs]
  | cons p rest =>
    have hp : p.powerUp = false := by simpa [State.powersUp, hs] using h
    simp [polled_cons hs, State.applyInput, hp]

/-- With a power-up before it, a Poll starts from `powerUp` and its own inputs (R260). -/
theorem polled_of_powersUp (h : s.powersUp = true) : s.polled =
    { s.powerUp with now := s.polled.now, rxq := s.polled.rxq, map := s.polled.map, schedule := s.polled.schedule } := by
  cases hs : s.schedule with
  | nil => simp [State.powersUp, hs] at h
  | cons p rest =>
    have hp : p.powerUp = true := by simpa [State.powersUp, hs] using h
    simp [polled_cons hs, State.applyInput, hp]

@[simp] theorem polled_slaveId (s : State) : s.polled.slaveId = s.slaveId := by
  cases h : s.powersUp
  · rw [polled_of_not_powersUp h]
  · rw [polled_of_powersUp h]; rfl

@[simp] theorem polled_nv (s : State) : s.polled.nv = s.nv := by
  cases h : s.powersUp
  · rw [polled_of_not_powersUp h]
  · rw [polled_of_powersUp h]; rfl

@[simp] theorem polled_tx (s : State) : s.polled.tx = s.tx := by
  cases h : s.powersUp
  · rw [polled_of_not_powersUp h]
  · rw [polled_of_powersUp h]; rfl

@[simp] theorem polled_cfg (s : State) : s.polled.cfg = s.cfg := by
  cases h : s.powersUp
  · rw [polled_of_not_powersUp h]
  · rw [polled_of_powersUp h]; rfl

theorem polled_bufLength (hb : s.buf.length = maxFrame) : s.polled.buf.length = maxFrame := by
  cases h : s.powersUp
  · rw [polled_of_not_powersUp h]; exact hb
  · rw [polled_of_powersUp h]; simp [maxFrame]

theorem polled_frameLen (hf : s.frameLen = 0) : s.polled.frameLen = 0 := by
  cases h : s.powersUp
  · rw [polled_of_not_powersUp h]; exact hf
  · rw [polled_of_powersUp h]; rfl

/-- The recorded count and its deadline stand, or a power-up made the assembler idle (R261). -/
theorem polled_count (s : State) :
    (s.polled.lastCount = s.lastCount ∧ s.polled.deadline = s.deadline) ∨ s.polled.lastCount = 0 := by
  cases h : s.powersUp
  · rw [polled_of_not_powersUp h]; exact .inl ⟨rfl, rfl⟩
  · rw [polled_of_powersUp h]; exact .inr rfl

/-- The transport only appends (R41), and a power-up leaves the queue alone (R263). -/
theorem prefix_polled_rxq (s : State) : s.rxq.IsPrefix s.polled.rxq := by
  cases hs : s.schedule with
  | nil => rw [polled_nil hs]
  | cons p rest =>
    rw [polled_cons hs]
    simp only [State.applyInput]
    split <;> simp

theorem length_polled_rxq (s : State) : s.rxq.length ≤ s.polled.rxq.length := (prefix_polled_rxq s).length_le

/-- A configured step is the Poll. -/
theorem step_configured (h : s.Configured) : step s = poll s.lateBytes s.polled := by
  rw [step_eq, h]

theorem poll_returned {late : List Byte} {t u : State} (h : assemble late t = .returned u) : poll late t = .next u := by
  rw [poll, h]

/-- A Poll that drains did not follow a power-up: it has counted bytes before (R261). -/
theorem State.Drains.not_powersUp (h : s.Drains) : s.powersUp = false := by
  cases hp : s.powersUp with
  | false => rfl
  | true =>
    have h0 : s.polled.lastCount = 0 := by rw [polled_of_powersUp hp]; rfl
    exact absurd (List.eq_nil_of_length_eq_zero (h.stable.trans h0)) h.waiting

/-- A Poll that drains starts from the state as it stands, its inputs apart. -/
theorem polled_of_drains (h : s.Drains) : s.polled =
    { s with now := s.polled.now, rxq := s.polled.rxq, map := s.polled.map, schedule := s.polled.schedule } :=
  polled_of_not_powersUp h.not_powersUp

/-- Step 2 of the assembler (R102). -/
theorem step_noFrame (hc : s.Configured) (h : s.polled.rxq = []) :
    step s = .next ((s.polled.enqueue s.lateBytes).report .noFrame) := by
  rw [step_configured hc]
  exact poll_returned (by rw [assemble, if_pos (by rw [h]; rfl)])

/-- Step 3 of the assembler (R103). -/
theorem step_changed (h : s.ObservesChange) :
    step s = .next ((s.polled.recordCount.enqueue s.lateBytes).report .pending) := by
  rw [step_configured h.configured]
  refine poll_returned ?_
  rw [assemble, if_neg (by simpa using h.waiting), if_pos h.changed]

/-- Step 4 of the assembler (R104). -/
theorem step_waiting (hc : s.Configured) (hw : s.polled.rxq ≠ []) (hs : s.polled.rxq.length = s.polled.lastCount)
    (hd : s.polled.now < s.polled.deadline) :
    step s = .next ((s.polled.enqueue s.lateBytes).report .pending) := by
  rw [step_configured hc]
  refine poll_returned ?_
  rw [assemble, if_neg (by simpa using hw), if_neg (by simpa using hs), if_pos hd]

theorem assemble_drains (h : s.Drains) : assemble s.lateBytes s.polled =
    if maxFrame < s.taken.length then .returned ((s.polled.drain s.lateBytes).dropWithError .captureOverflow)
    else .captured s.capture := by
  rw [assemble, if_neg (by simpa using h.waiting), if_neg (by simpa using h.stable),
    if_neg (by have := h.silent; simpa using this)]
  rfl

/-- Step 5 of the assembler, more than 140 bytes (R106). -/
theorem step_overflow (h : s.Drains) (hl : maxFrame < s.taken.length) :
    step s = .next ((s.polled.drain s.lateBytes).dropped .captureOverflow) := by
  rw [step_configured h.configured]
  exact poll_returned (by rw [assemble_drains h, if_pos hl, dropWithError_eq])

/-- Step 5 of the assembler, a frame that fits (R105). -/
theorem step_captured (h : s.Drains) (hl : s.taken.length ≤ maxFrame) : step s = serve s.capture := by
  rw [step_configured h.configured, poll, assemble_drains h, if_neg (by omega)]

/-- The captured frame is the bytes taken (R105, R107). -/
theorem capture_frame (hl : s.taken.length ≤ maxFrame) : s.capture.frame = s.taken := by
  have ht : (s.polled.rxq ++ s.lateBytes).take maxFrame = s.taken := List.take_of_length_le hl
  show (overwrite s.polled.buf 0 ((s.polled.rxq ++ s.lateBytes).take maxFrame)).take s.taken.length = s.taken
  rw [ht]
  have := take_overwrite (f := s.polled.buf) (bs := s.taken) (i := 0) (Nat.zero_le _)
  simpa using this

theorem capture_bufLength (hb : s.buf.length = maxFrame) (hl : s.taken.length ≤ maxFrame) :
    s.capture.buf.length = maxFrame := by
  have ht : (s.polled.rxq ++ s.lateBytes).take maxFrame = s.taken := List.take_of_length_le hl
  show (overwrite s.polled.buf 0 ((s.polled.rxq ++ s.lateBytes).take maxFrame)).length = maxFrame
  rw [ht, length_overwrite] <;> rw [polled_bufLength hb]
  omega

@[simp] theorem capture_slaveId (s : State) : s.capture.slaveId = s.slaveId := by
  show s.polled.slaveId = _; simp

@[simp] theorem capture_map (s : State) : s.capture.map = s.polled.map := rfl

@[simp] theorem capture_nv (s : State) : s.capture.nv = s.nv := by
  show s.polled.nv = _; simp

@[simp] theorem capture_tx (s : State) : s.capture.tx = s.tx := by
  show s.polled.tx = _; simp

@[simp] theorem capture_cfg (s : State) : s.capture.cfg = s.cfg := by
  show s.polled.cfg = _; simp

@[simp] theorem capture_rxCnt (s : State) : s.capture.rxCnt = s.polled.rxCnt + 1 := rfl

/-- The bytes of the captured frame, read from the RawFrame. -/
theorem byteAt_capture (hl : s.taken.length ≤ maxFrame) {i : Nat} (hi : i < s.taken.length) :
    byteAt s.capture.buf i = byteAt s.taken i := by
  have h := capture_frame hl
  have h2 : byteAt s.capture.frame i = byteAt s.capture.buf i := by
    have : i < s.capture.frameLen := hi
    simp [State.frame, byteAt, this]
  rw [← h2, h]

theorem take_capture (hl : s.taken.length ≤ maxFrame) {n : Nat} (hn : n ≤ s.taken.length) :
    s.capture.buf.take n = s.taken.take n := by
  have h := capture_frame hl
  rw [← h, State.frame, List.take_take]
  congr 1
  exact (Nat.min_eq_left hn).symm

/-- Stages 2 to 5 (R100), every case. -/
theorem serve_cases (t : State) :
    (byteAt t.frame 0 ≠ t.slaveId ∧ serve t = .next (t.ignored .notAddressed)) ∨
    (byteAt t.frame 0 = t.slaveId ∧ (t.frame.length < 4 ∨ verify t.frame = false) ∧
      serve t = .next (t.dropped .noReply)) ∨
    (byteAt t.frame 0 = t.slaveId ∧ 4 ≤ t.frame.length ∧ verify t.frame = true ∧
      ((∃ fc, decode t.frame = .rejected (.shortForFunction fc) ∧
          serve t = .next (t.takeException .illegalDataValue)) ∨
        ∃ i, decode t.frame = .instr i ∧ serve t = exec i t)) := by
  by_cases ha : byteAt t.frame 0 = t.slaveId
  · right
    rcases decode_cases t.frame with ⟨h1, h2⟩ | ⟨h1, h2, h3⟩ | ⟨h1, h2, -⟩
    · exact .inl ⟨ha, .inl h1, by rw [serve, if_neg (by simpa using ha), h2]; rfl⟩
    · exact .inl ⟨ha, .inr h2, by rw [serve, if_neg (by simpa using ha), h3]; rfl⟩
    · refine .inr ⟨ha, h1, h2, ?_⟩
      cases hd : decode t.frame with
      | instr i => exact .inr ⟨i, rfl, by rw [serve, if_neg (by simpa using ha), hd]⟩
      | rejected e =>
        cases e with
        | shortFrame =>
          rw [decode, if_neg (by omega), h2, if_pos rfl] at hd
          exact absurd hd (by unfold decodePayload; split <;> (try split) <;> simp)
        | badChecksum =>
          rw [decode, if_neg (by omega), h2, if_pos rfl] at hd
          exact absurd hd (by unfold decodePayload; split <;> (try split) <;> simp)
        | shortForFunction fc => exact .inl ⟨fc, rfl, by rw [serve, if_neg (by simpa using ha), hd]⟩
  · exact .inl ⟨ha, by rw [serve, if_pos ha]; rfl⟩

/-- Every way a step can go: it refuses a configuration outside the spec, or it is one of the assembler's returns, or
it serves a captured frame. -/
theorem step_cases (s : State) :
    (∃ r, s.polled.misconfigured = some r ∧ step s = .refused r) ∨
    (s.Configured ∧ s.polled.rxq = [] ∧ step s = .next ((s.polled.enqueue s.lateBytes).report .noFrame)) ∨
    (s.ObservesChange ∧ step s = .next ((s.polled.recordCount.enqueue s.lateBytes).report .pending)) ∨
    (s.Configured ∧ s.polled.rxq ≠ [] ∧ s.polled.rxq.length = s.polled.lastCount ∧ s.polled.now < s.polled.deadline ∧
      step s = .next ((s.polled.enqueue s.lateBytes).report .pending)) ∨
    (s.Drains ∧ maxFrame < s.taken.length ∧ step s = .next ((s.polled.drain s.lateBytes).dropped .captureOverflow)) ∨
    (s.Drains ∧ s.taken.length ≤ maxFrame ∧ step s = serve s.capture) := by
  cases hm : s.polled.misconfigured with
  | some r => exact .inl ⟨r, rfl, by rw [step_eq, hm]⟩
  | none =>
    right
    have hc : s.Configured := hm
    by_cases h0 : s.polled.rxq = []
    · exact .inl ⟨hc, h0, step_noFrame hc h0⟩
    by_cases h1 : s.polled.rxq.length = s.polled.lastCount
    · by_cases h2 : s.polled.now < s.polled.deadline
      · exact .inr (.inr (.inl ⟨hc, h0, h1, h2, step_waiting hc h0 h1 h2⟩))
      · have hd : s.Drains := ⟨hc, h0, h1, by simpa using h2⟩
        by_cases h3 : maxFrame < s.taken.length
        · exact .inr (.inr (.inr (.inl ⟨hd, h3, step_overflow hd h3⟩)))
        · exact .inr (.inr (.inr (.inr ⟨hd, by omega, step_captured hd (by omega)⟩)))
    · exact .inr (.inl ⟨⟨hc, h0, h1⟩, step_changed ⟨hc, h0, h1⟩⟩)

/-! ## Runs -/

theorem run_of_next {M : Host.Core} {s t : M.State} (h : M.step s = .next t) (k : Nat) :
    M.run (k + 1) s = M.run k t := by
  simp [Host.Core.run, h]

theorem run_of_refused {M : Host.Core} {s : M.State} {r : M.Refusal} (h : M.step s = .refused r) (k : Nat) :
    M.run (k + 1) s = .refused r := by
  simp [Host.Core.run, h]

end Sys2Proof.Machine
end

