-- ==== Sys2Proof/Tests/Slice0.lean ====
section
/-! SUPPORT. Tests: the checks of WellFormed refuse ill-formed terms, requests written out byte by byte from the spec
decode as they should, each instruction does what the spec's vectors say (95_test_vectors.md, R126, R166, R188, R207,
R251; every expected byte is the spec's), and for each statement of Obligations.lean with hypotheses a witness that
meets them. -/

namespace Sys2Proof.Tests

set_option Elab.async false

open Machine

/-! ## A small device: the configuration of the spec's vectors -/

/-- `SLAVE_ID` 1, `NV_CAPACITY` 16, `ID_STRING` 42 49, `ID_TRAILER` FF 00, eight holding registers (R188, R207). -/
def base : State := { State.reset with
  cfg := { nvCapacity := 16, idString := IdString.ofList [0x42, 0x49], idTrailer0 := 0xFF, idTrailer1 := 0, wdTimeout := 9 }
  map := { RegisterMap.reset with
    hr := [0x1111, 0x2222, 0x3333, 0x4444, 0x5555, 0x6666, 0x7777, 0x8888], holdLen := 8 } }

def withCo (w : Word) : State := base.setCo w

def withDi (w : Word) : State := { base with map := { base.map with di := w } }

def withIr (ws : List Word) : State := { base with map := { base.map with ir := ws, inLen := ws.length } }

/-- `s` after the Poll that drains the frame `f`, and what `view` sees of it. -/
def after {α : Type} (s : State) (f : List Byte) (view : State → α) : Option α :=
  match step (s.placeFrame f) with
  | .next t => some (view t)
  | _ => none

/-- The frames sent, the command record, and the counters. -/
def sent (s : State) (f : List Byte) : Option (List (List Byte) × CommandRecord) := after s f fun t => (t.tx, t.cmd)

/-! ## WellFormed refuses ill-formed terms -/

/-- A frame of 141 bytes does not fit the RawFrame (R30, R70). -/
theorem test_wellFormed_refuses_long : (Instr.rdcoil 0 0 (List.replicate 133 0)).wellFormed = false := by
  decide +kernel

theorem test_wellFormed_takes_140 : (Instr.rdcoil 0 0 (List.replicate 132 0)).wellFormed = true := by
  decide +kernel

/-- A supported function byte is not ILLEGAL (R84). -/
theorem test_wellFormed_refuses_illegal_of_whitelist : (Instr.illegal 1 []).wellFormed = false := by decide

theorem test_wellFormed_takes_illegal : (Instr.illegal 7 []).wellFormed = true := by decide

/-! ## Decoding: requests written out from the spec -/

theorem test_decode_rdcoil : decode [0x01, 0x01, 0x00, 0x04, 0x00, 0x09, 0xBD, 0xCD] = .instr (.rdcoil 4 9 []) := by
  decide +kernel

theorem test_decode_rddisc : decode [0x01, 0x02, 0x00, 0x00, 0x00, 0x10, 0x79, 0xC6] = .instr (.rddisc 0 16 []) := by
  decide +kernel

theorem test_decode_rdhold : decode [0x01, 0x03, 0x01, 0x00, 0x00, 0x08, 0x45, 0xF0] = .instr (.rdhold 0x0100 8 []) := by
  decide +kernel

theorem test_decode_rdinp : decode [0x01, 0x04, 0x00, 0x00, 0x00, 0x02, 0x71, 0xCB] = .instr (.rdinp 0 2 []) := by
  decide +kernel

theorem test_decode_wrcoil : decode [0x01, 0x05, 0x00, 0x03, 0xFF, 0x5A, 0xFC, 0x01] = .instr (.wrcoil 3 0xFF 0x5A []) := by
  decide +kernel

theorem test_decode_wrreg : decode [0x01, 0x06, 0x01, 0x02, 0xBE, 0xEF, 0x19, 0xDA] = .instr (.wrreg 0x0102 0xBEEF []) := by
  decide +kernel

theorem test_decode_wrmcoil : decode [0x01, 0x0F, 0x00, 0x00, 0x00, 0x08, 0x63, 0x0F, 0x97, 0xF1] =
    .instr (.wrmcoil 0 8 0x63 [0x0F]) := by
  decide +kernel

theorem test_decode_wrmreg : decode [0x01, 0x10, 0x00, 0x00, 0x01, 0x02, 0x04, 0xAA, 0xAA, 0xBB, 0xBB, 0xD0, 0x14] =
    .instr (.wrmreg 0 0x0102 4 [0xAA, 0xAA, 0xBB, 0xBB]) := by
  decide +kernel

theorem test_decode_rptid : decode [0xF7, 0x11, 0x87, 0x8C] = .instr (.rptid []) := by decide +kernel

theorem test_decode_wrfile :
    decode [0x01, 0x15, 0x09, 0x07, 0x00, 0x01, 0x00, 0x00, 0x00, 0x01, 0xDE, 0xAD, 0xF3, 0xCF] =
      .instr (.wrfile 9 7 1 0 1 [0xDE, 0xAD]) := by
  decide +kernel

theorem test_decode_illegal : decode [0x01, 0x07, 0x41, 0xE2] = .instr (.illegal 7 []) := by decide +kernel

/-- One to three bytes, a wrong checksum, and a WRFILE of 11 bytes are rejected, each by name (R132, R133, R135). -/
theorem test_decode_rejects :
    decode [0x01, 0x84, 0x0A] = .rejected .shortFrame ∧
    decode [0x01, 0x03, 0x00, 0x00, 0x00, 0x01, 0x84, 0x0B] = .rejected .badChecksum ∧
    decode [0x01, 0x15, 0x06, 0x06, 0x00, 0x01, 0x00, 0x00, 0x00, 0xA1, 0xC9] = .rejected (.shortForFunction 21) := by
  decide +kernel

/-- The encoder writes the frame the spec writes (S4, S6). -/
theorem test_encode :
    encode 1 (.wrreg 2 0x1234 []) = [0x01, 0x06, 0x00, 0x02, 0x12, 0x34, 0x25, 0x7D] ∧
    encode 1 (.wrfile 0x0B 6 1 1 2 [0xA1, 0xA2, 0xA3, 0xA4]) =
      [0x01, 0x15, 0x0B, 0x06, 0x00, 0x01, 0x00, 0x01, 0x00, 0x02, 0xA1, 0xA2, 0xA3, 0xA4, 0xFD, 0xC3] := by
  decide +kernel

/-! ## The rows of the opcode table -/

/-- Each row's word decodes to its own instruction with operand bytes of zeros. -/
theorem test_table_words :
    [1, 2, 3, 4, 5, 6, 15, 16, 17, 21, 7].map (decodeTableWord 8) =
      [some (.rdcoil 0 0 []), some (.rddisc 0 0 []), some (.rdhold 0 0 []), some (.rdinp 0 0 []),
        some (.wrcoil 0 0 0 []), some (.wrreg 0 0 []), some (.wrmcoil 0 0 0 []), some (.wrmreg 0 0 0 []),
        some (.rptid []), some (.wrfile 0 0 0 0 0 []), some (.illegal 7 [])] := by
  decide +kernel

/-- Each row's word runs as the first request after reset. -/
theorem test_table_words_run :
    ([1, 2, 3, 4, 5, 6, 15, 16, 17, 21, 7].map fun w =>
      match step (State.reset.withFetchWord 8 w) with | .next t => t.txCnt | _ => 0) = List.replicate 11 1 := by
  decide +kernel

/-! ## What each instruction does, with the bytes of the spec's vectors -/

theorem test_rdcoil : sent (withCo 0xA5C3) [0x01, 0x01, 0x00, 0x04, 0x00, 0x09, 0xBD, 0xCD] =
    some ([[0x01, 0x01, 0x02, 0x5C, 0x00, 0x80, 0xFC]], ⟨1, 4, 9⟩) := by
  decide +kernel

/-- The quantity is tested before the range (R166). -/
theorem test_rdcoil_order : sent base [0x01, 0x01, 0x00, 0x10, 0x00, 0x11, 0xFD, 0xC3] =
    some ([[0x01, 0x81, 0x03, 0x00, 0x51]], ⟨0, 0, 0⟩) := by
  decide +kernel

theorem test_rddisc : sent (withDi 0x1234) [0x01, 0x02, 0x00, 0x00, 0x00, 0x10, 0x79, 0xC6] =
    some ([[0x01, 0x02, 0x02, 0x34, 0x12, 0x2F, 0x75]], ⟨2, 0, 16⟩) := by
  decide +kernel

theorem test_rdhold : sent base [0x01, 0x03, 0x00, 0x07, 0x00, 0x01, 0x35, 0xCB] =
    some ([[0x01, 0x03, 0x02, 0x88, 0x88, 0xDE, 0x22]], ⟨3, 7, 1⟩) := by
  decide +kernel

/-- A response that would not fit is not sent (R182). -/
theorem test_rdhold_overflow :
    after base [0x01, 0x03, 0x00, 0x00, 0x01, 0x00, 0x44, 0x5A] (fun t => (t.tx, t.errCnt, t.outcome)) =
      some ([], 1, some .respOverflow) := by
  decide +kernel

theorem test_rdinp : sent (withIr [0x0102, 0x0304]) [0x01, 0x04, 0x00, 0x00, 0x00, 0x02, 0x71, 0xCB] =
    some ([[0x01, 0x04, 0x04, 0x01, 0x02, 0x03, 0x04, 0x5A, 0x8B]], ⟨4, 0, 2⟩) := by
  decide +kernel

theorem test_wrcoil_off :
    after (withCo 0xFFFF) [0x01, 0x05, 0x00, 0x0F, 0x00, 0x00, 0xFD, 0xC9] (fun t => (t.tx, t.map.co, t.cmd)) =
      some ([[0x01, 0x05, 0x00, 0x0F, 0x00, 0x00, 0xFD, 0xC9]], 0x7FFF, ⟨5, 15, 1⟩) := by
  decide +kernel

/-- The marker is tested before the address (R166). -/
theorem test_wrcoil_order : sent base [0x01, 0x05, 0x00, 0x10, 0x7F, 0x00, 0xEC, 0x3F] =
    some ([[0x01, 0x85, 0x03, 0x02, 0x91]], ⟨0, 0, 0⟩) := by
  decide +kernel

theorem test_wrreg :
    after base [0x01, 0x06, 0x00, 0x07, 0xBE, 0xEF, 0x08, 0x27] (fun t => (t.tx, t.map.hr, t.cmd)) =
      some ([[0x01, 0x06, 0x00, 0x07, 0xBE, 0xEF, 0x08, 0x27]],
        [0x1111, 0x2222, 0x3333, 0x4444, 0x5555, 0x6666, 0x7777, 0xBEEF], ⟨6, 7, 1⟩) := by
  decide +kernel

/-- An aliased write is echoed and writes nothing (P5). -/
theorem test_wrreg_aliased :
    after base [0x01, 0x06, 0x00, 0xFF, 0xBE, 0xEF, 0x89, 0xD6] (fun t => (t.tx, t.map.hr == base.map.hr, t.cmd)) =
      some ([[0x01, 0x06, 0x00, 0xFF, 0xBE, 0xEF, 0x89, 0xD6]], true, ⟨6, 255, 1⟩) := by
  decide +kernel

theorem test_wrmcoil :
    after (withCo 0xFF00) [0x01, 0x0F, 0x00, 0x00, 0x00, 0x08, 0x63, 0x0F, 0x97, 0xF1]
      (fun t => (t.tx, t.map.co, t.cmd)) =
      some ([[0x01, 0x0F, 0x00, 0x00, 0x00, 0x08, 0x54, 0x0D]], 0xFF0F, ⟨15, 0, 8⟩) := by
  decide +kernel

/-- Nine coils and one data byte (R166). -/
theorem test_wrmcoil_short : sent base [0x01, 0x0F, 0x00, 0x00, 0x00, 0x09, 0x01, 0xFF, 0xEF, 0x15] =
    some ([[0x01, 0x8F, 0x03, 0x04, 0x31]], ⟨0, 0, 0⟩) := by
  decide +kernel

/-- The quantity's low byte alone counts the words (P5). -/
theorem test_wrmreg :
    after base [0x01, 0x10, 0x00, 0x06, 0x01, 0x02, 0x04, 0xAA, 0xAA, 0xBB, 0xBB, 0x50, 0x3E]
      (fun t => (t.tx, t.map.hr, t.cmd)) =
      some ([[0x01, 0x10, 0x00, 0x06, 0x01, 0x02, 0xA0, 0x59]],
        [0x1111, 0x2222, 0x3333, 0x4444, 0x5555, 0x6666, 0xAAAA, 0xBBBB], ⟨16, 6, 2⟩) := by
  decide +kernel

/-- A quantity whose low byte is negative writes nothing (P5). -/
theorem test_wrmreg_signed :
    after base [0x01, 0x10, 0x00, 0x01, 0x00, 0xFF, 0x00, 0x49, 0x5C] (fun t => (t.tx, t.map.hr == base.map.hr, t.cmd)) =
      some ([[0x01, 0x10, 0x00, 0x01, 0x00, 0xFF, 0xD1, 0x89]], true, ⟨16, 1, 0⟩) := by
  decide +kernel

theorem test_rptid : sent { base with slaveId := 247 } [0xF7, 0x11, 0x87, 0x8C] =
    some ([[0xF7, 0x11, 0x42, 0x49, 0xFF, 0x00, 0x6D, 0x01]], ⟨17, 0, 4⟩) := by
  decide +kernel

theorem test_wrfile :
    after base [0x01, 0x15, 0x09, 0x06, 0x00, 0x01, 0x00, 0x07, 0x00, 0x01, 0xDE, 0xAD, 0x4B, 0x9F]
      (fun t => (t.tx, t.nv, t.cmd)) =
      some ([[0x01, 0x15, 0x09, 0xEE, 0x96]], [(14, 0xDE), (15, 0xAD)], ⟨21, 14, 2⟩) := by
  decide +kernel

/-- `nvstore_read` of the store that `test_wrfile` leaves: a written byte, and one that nothing wrote (R39, R58). -/
theorem test_nvstore_read : Memory.nvstoreRead [(14, 0xDE), (15, 0xAD)] 15 = 0xAD ∧
    Memory.nvstoreRead [(14, 0xDE), (15, 0xAD)] 3 = Config.nvByte 3 := ⟨rfl, rfl⟩

/-- The byte range is not truncated (R207). -/
theorem test_wrfile_range :
    after base [0x01, 0x15, 0x07, 0x06, 0x00, 0x01, 0xFF, 0xFF, 0xFF, 0xFF, 0xC8, 0xE0] (fun t => (t.tx, t.nv)) =
      some ([[0x01, 0x95, 0x02, 0xCE, 0x91]], []) := by
  decide +kernel

theorem test_illegal :
    after base [0x01, 0x07, 0x41, 0xE2] (fun t => (t.tx, t.rxCnt, t.txCnt, t.errCnt)) =
      some ([[0x01, 0x87, 0x01, 0x82, 0x30]], 1, 1, 1) := by
  decide +kernel

/-- A function byte whose bit 7 is set keeps it (R251). -/
theorem test_illegal_bit7 : sent base [0x01, 0x83, 0x02, 0xC0, 0xF1] = some ([[0x01, 0x83, 0x01, 0x80, 0xF0]], ⟨0, 0, 0⟩) := by
  decide +kernel

/-! ## Assembler -/

/-- Vector A7: the deadline wraps, and at 2^64 - 1 the frame is drained. -/
theorem test_deadline_wraps :
    (match step { base with rxq := [9, 9, 9, 9], now := BitVec.ofNat 64 (2 ^ 64 - 3) } with
      | .next t => (t.lastCount, t.deadline, t.outcome) | _ => (0, 0, none)) = (4, 2, some .pending) := by
  decide +kernel

/-- Vector A11: bytes that arrive while the frame is drained belong to it. -/
theorem test_late_bytes :
    (match step { base with
        map := { base.map with hr := [7, 0, 0, 0, 0, 0, 0, 0] }
        rxq := [0x01, 0x03, 0x00, 0x00, 0x00, 0x01], lastCount := 6, deadline := 5
        schedule := [{ powerUp := false, now := 5, arrived := [], late := [0x84, 0x0A], map := none }] } with
      | .next t => t.tx | _ => []) = [[0x01, 0x03, 0x02, 0x00, 0x07, 0xF9, 0x86]] := by
  decide +kernel

/-- A device with a history, the store as `test_wrfile` leaves it, whose power is cycled before the next Poll. -/
def cycled : State := { base with
  nv := [(14, 0xDE), (15, 0xAD)], rxCnt := 7, txCnt := 5, errCnt := 3, cmd := ⟨21, 14, 2⟩, lastCount := 4, deadline := 99
  rxq := [9, 9, 9], schedule := [{ powerUp := true, now := 2, arrived := [9], late := [], map := none }] }

/-- The written bytes, the map and the queue outlive the power-up (R43, R263). -/
theorem test_store_outlives_power_up :
    (match step cycled with
      | .next t => (t.nv.read 14, t.nv.read 15, t.map.hr == base.map.hr, t.rxq) | _ => (none, none, false, [])) =
      (some 0xDE, some 0xAD, true, [9, 9, 9, 9]) := by
  decide +kernel

/-- The counters, `cmd` and the recorded count do not outlive it, so that the fourth byte starts a new silence (R43). -/
theorem test_counters_start_at_power_up :
    (match step cycled with
      | .next t => ([t.rxCnt, t.txCnt, t.errCnt], t.cmd, t.deadline, t.outcome) | _ => ([], ⟨1, 0, 0⟩, 0, none)) =
      ([0, 0, 0], ⟨0, 0, 0⟩, 7, some .pending) := by
  decide +kernel

/-! ## Witnesses: a state and operands that meet the hypotheses of each statement of Obligations.lean -/

/-- `RDHOLD 1, 0, 1` and other frames of the spec. -/
def rdhold01 : List Byte := [0x01, 0x03, 0x00, 0x00, 0x00, 0x01, 0x84, 0x0A]

def wrcoil3 : List Byte := [0x01, 0x05, 0x00, 0x03, 0xFF, 0x00, 0x7C, 0x3A]

/-- The 140-byte frame of vector A9. -/
def frame140 : List Byte := [0x01, 0x41] ++ List.replicate 136 0 ++ [0xD9, 0xA9]

theorem base_bufLength : base.buf.length = 140 := by decide +kernel

theorem base_configured : base.misconfigured = none := by decide +kernel

/-- A placed frame is drained by the next Poll. -/
theorem placed_drains {f : List Byte} (h : f ≠ []) : (base.placeFrame f).Drains :=
  ⟨base_configured, h, rfl, BitVec.le_refl _⟩

/-- A placed frame that fits and has the address is served. -/
theorem placed_serves {f : List Byte} (h : f ≠ []) (hl : f.length ≤ 140) (ha : byteAt f 0 = 1) :
    (base.placeFrame f).ServesFrame := by
  have ht : (base.placeFrame f).taken = f := List.append_nil f
  exact ⟨placed_drains h, by rw [ht]; exact hl, by rw [ht]; exact ha⟩

theorem base_exec_next (i : Instr) : ∃ t, exec i base = .next t := (exec_ends base_bufLength i).imp fun _ h => h.1

/-- A step of `s` whose next state passes the test `p`. -/
def stepsTo (s : State) (p : State → Bool) : Bool :=
  match step s with
  | .next t => p t
  | _ => false

theorem exists_next {s : State} {p : State → Bool} (h : stepsTo s p = true) : ∃ t, step s = .next t ∧ p t = true := by
  unfold stepsTo at h
  split at h
  · exact ⟨_, by assumption, h⟩
  · cases h

theorem witness_DecodeOfEncodeReturnsTheRequest :
    (Instr.illegal 0x41 (List.replicate 136 0)).wellFormed = true ∧ (Instr.wrcoil 0xFFFF 0xFF 0x5A []).wellFormed = true := by
  decide +kernel

set_option maxRecDepth 20000 in
theorem witness_EncodeOfDecodeReturnsTheFrame :
    decode frame140 = .instr (.illegal 0x41 (List.replicate 136 0)) ∧ frame140.length ≤ 140 := by
  decide +kernel

theorem witness_ChecksumCatchesEverySingleBitError : 1 < (withChecksum []).length ∧ 7 < 8 := by decide

theorem witness_EmptyQueuePollChangesNothing : base.Configured ∧ base.polled.rxq = [] := ⟨base_configured, rfl⟩

/-- The device with one byte waiting, not yet counted. -/
def oneByte : State := { base with rxq := [9] }

theorem witness_ChangedCountRestartsTheSilence : oneByte.ObservesChange := ⟨base_configured, by decide, by decide⟩

/-- One counted byte, the deadline one unit ahead, and just reached. -/
theorem witness_StableCountWaitsForTheDeadline :
    (∃ s : State, s.buf.length = 140 ∧ s.Configured ∧ s.polled.rxq ≠ [] ∧ s.polled.rxq.length = s.polled.lastCount ∧
      s.polled.now.toNat < s.polled.deadline.toNat) ∧
    ∃ s : State, s.buf.length = 140 ∧ s.Configured ∧ s.polled.rxq ≠ [] ∧ s.polled.rxq.length = s.polled.lastCount ∧
      s.polled.deadline.toNat ≤ s.polled.now.toNat :=
  ⟨⟨{ oneByte with lastCount := 1, deadline := 5, now := 4 }, base_bufLength, base_configured, by decide, rfl, by decide⟩,
    ⟨{ oneByte with lastCount := 1, deadline := 5, now := 5 }, base_bufLength, base_configured, by decide, rfl, by decide⟩⟩

/-- Exactly 140 bytes, and 141. -/
theorem witness_DrainTakesEverythingUnread :
    (∃ s : State, s.Drains ∧ s.taken.length ≤ 140) ∧ ∃ s : State, s.Drains ∧ 140 < s.taken.length :=
  ⟨⟨base.placeFrame (List.replicate 140 1), placed_drains (by simp), by simp [State.taken, State.polled,
      State.lateBytes, State.beginPoll, State.placeFrame]⟩,
    ⟨base.placeFrame (List.replicate 141 1), placed_drains (by simp), by simp [State.taken, State.polled,
      State.lateBytes, State.beginPoll, State.placeFrame]⟩⟩

/-- A Poll of each kind: the queue empty, the queue kept, the queue drained. -/
theorem witness_LateBytesWaitInTheQueue :
    (∃ t, base.buf.length = 140 ∧ step base = .next t ∧ (t.outcome == some .noFrame) = true) ∧
    (∃ t, oneByte.buf.length = 140 ∧ step oneByte = .next t ∧ (t.outcome == some .pending) = true) ∧
    ∃ t, (base.placeFrame [9]).buf.length = 140 ∧ step (base.placeFrame [9]) = .next t ∧
      (t.outcome != some .noFrame && t.outcome != some .pending) = true :=
  ⟨(exists_next (p := fun t => t.outcome == some .noFrame) (by decide +kernel)).imp fun _ h => ⟨base_bufLength, h⟩,
    (exists_next (p := fun t => t.outcome == some .pending) (by decide +kernel)).imp fun _ h => ⟨base_bufLength, h⟩,
    (exists_next (p := fun t => t.outcome != some .noFrame && t.outcome != some .pending) (by decide +kernel)).imp
      fun _ h => ⟨base_bufLength, h⟩⟩

/-- A byte counted at 11, then a Poll at 16. -/
def twoPolls : State := { base with schedule :=
  [{ powerUp := false, now := 11, arrived := [9], late := [], map := none },
    { powerUp := false, now := 16, arrived := [], late := [], map := none }] }

theorem witness_NoDrainWithinT35OfAnObservedChange : ∃ t : State,
    twoPolls.ObservesChange ∧ twoPolls.polled.now.toNat + 5 < 2 ^ 64 ∧ 1 ≤ 1 ∧
    (∀ j u, 1 ≤ j → j ≤ 1 → Host.Core.run Sys2Proof.core j twoPolls = .next u →
      twoPolls.polled.now.toNat ≤ (State.polled u).now.toNat ∧ (State.polled u).now.toNat + 5 < 2 ^ 64) ∧
    Host.Core.run Sys2Proof.core 1 twoPolls = .next t ∧ t.Drains := by
  have ho : twoPolls.ObservesChange := ⟨base_configured, by decide, by decide⟩
  have hr : Host.Core.run Sys2Proof.core 1 twoPolls =
      .next ((twoPolls.polled.recordCount.enqueue twoPolls.lateBytes).report .pending) :=
    run_of_next (M := Sys2Proof.core) (step_changed ho) 0
  refine ⟨_, ho, by decide, by decide, ?_, hr, base_configured, by decide, by decide, by decide⟩
  intro j u h1 h2 hu
  obtain rfl : j = 1 := by omega
  rw [hr] at hu
  cases hu
  decide

theorem witness_FrameForAnotherAddressIsDropped : ∃ s : State,
    s.Drains ∧ s.taken.length ≤ 140 ∧ byteAt s.taken 0 ≠ s.slaveId :=
  ⟨base.placeFrame [0x02, 0x03, 0x00, 0x00, 0x00, 0x01, 0x84, 0x39], placed_drains (by simp), by decide, by decide⟩

/-- Three bytes, and a checksum with one bit flipped. -/
theorem witness_ShortOrCorruptFrameIsSilent :
    (∃ s : State, s.ServesFrame ∧ s.taken.length < 4) ∧ ∃ s : State, s.ServesFrame ∧ verify s.taken = false :=
  ⟨⟨base.placeFrame [0x01, 0x84, 0x0A], placed_serves (by simp) (by simp) rfl, by decide⟩,
    ⟨base.placeFrame [0x01, 0x03, 0x00, 0x00, 0x00, 0x01, 0x84, 0x0B], placed_serves (by simp) (by simp) rfl,
      by decide +kernel⟩⟩

theorem witness_UnsupportedFunctionByteGetsException1 : ∃ s : State, s.buf.length = 140 ∧ s.ServesFrame ∧
    4 ≤ s.taken.length ∧ verify s.taken = true ∧
    (byteAt s.taken 1).toNat ∉ [1, 2, 3, 4, 5, 6, 15, 16, 17, 21] :=
  ⟨base.placeFrame [0x01, 0x07, 0x41, 0xE2], base_bufLength, placed_serves (by simp) (by simp) rfl, by decide,
    by decide +kernel, by decide⟩

/-- One byte short of each minimum: 7 bytes of function 3, 8 of function 16, 11 of function 21. -/
theorem witness_FrameBelowItsMinimumGetsException3 :
    (∃ s : State, s.buf.length = 140 ∧ s.ServesFrame ∧ 4 ≤ s.taken.length ∧ verify s.taken = true ∧
      (byteAt s.taken 1).toNat ∈ [1, 2, 3, 4, 5, 6] ∧ s.taken.length < 8) ∧
    (∃ s : State, s.buf.length = 140 ∧ s.ServesFrame ∧ 4 ≤ s.taken.length ∧ verify s.taken = true ∧
      (byteAt s.taken 1).toNat ∈ [15, 16] ∧ s.taken.length < 9) ∧
    ∃ s : State, s.buf.length = 140 ∧ s.ServesFrame ∧ 4 ≤ s.taken.length ∧ verify s.taken = true ∧
      (byteAt s.taken 1).toNat = 21 ∧ s.taken.length < 12 :=
  ⟨⟨base.placeFrame (withChecksum [0x01, 0x03, 0x00, 0x00, 0x00]), base_bufLength,
      placed_serves (by simp [withChecksum]) (by simp) rfl, by decide +kernel, by decide +kernel, by decide +kernel,
      by decide +kernel⟩,
    ⟨base.placeFrame (withChecksum [0x01, 0x10, 0x00, 0x00, 0x00, 0x00]), base_bufLength,
      placed_serves (by simp [withChecksum]) (by simp) rfl, by decide +kernel, by decide +kernel, by decide +kernel,
      by decide +kernel⟩,
    ⟨base.placeFrame [0x01, 0x15, 0x06, 0x06, 0x00, 0x01, 0x00, 0x00, 0x00, 0xA1, 0xC9], base_bufLength,
      placed_serves (by simp) (by simp) rfl, by decide +kernel, by decide +kernel, by decide +kernel,
      by decide +kernel⟩⟩

theorem witness_StepRunsTheDecodedRequest : ∃ s : State, s.ServesFrame ∧ decode s.taken = .instr (.wrcoil 3 0xFF 0 []) :=
  ⟨base.placeFrame wrcoil3, placed_serves (by simp [wrcoil3]) (by simp [wrcoil3]) rfl, by decide +kernel⟩

/-- A frame for each result of the validator: 255, 1, 2, 3 and 0. -/
theorem witness_StepFollowsTheWholeValidator :
    (∀ f : List Byte, f ≠ [] → f.length ≤ 140 → byteAt f 0 = 1 → (base.placeFrame f).buf.length = 140 ∧
      (base.placeFrame f).ServesFrame) ∧
    rule130 [0x01, 0x84, 0x0A] 0 8 16 = 255 ∧ rule130 [0x01, 0x07, 0x41, 0xE2] 0 8 16 = 1 ∧
    rule130 [0x01, 0x03, 0x00, 0x07, 0x00, 0x02, 0x75, 0xCA] 0 8 16 = 2 ∧
    rule130 [0x01, 0x05, 0x00, 0x04, 0x12, 0x00, 0x80, 0xAB] 0 8 16 = 3 ∧ rule130 rdhold01 0 8 16 = 0 :=
  ⟨fun _ h1 h2 h3 => ⟨base_bufLength, placed_serves h1 h2 h3⟩, by decide +kernel⟩

theorem witness_FetchWordRunsTheTableRequest : State.reset.misconfigured = none := by decide +kernel

/-- One element at position 15, and 16 from position 0. -/
theorem witness_BitReadsAnswerThePackedBits : base.buf.length = 140 ∧
    ((1 : Word).toNat ≤ 16 ∧ (15 : Word).toNat ≤ 15 ∧ (15 : Word).toNat + (1 : Word).toNat ≤ 16) ∧
    (16 : Word).toNat ≤ 16 ∧ (0 : Word).toNat ≤ 15 ∧ (0 : Word).toNat + (16 : Word).toNat ≤ 16 :=
  ⟨base_bufLength, by decide⟩

theorem witness_CoilWriteWritesOneCoil : base.buf.length = 140 ∧ ((0xFF : Byte) = 0x00 ∨ (0xFF : Byte) = 0xFF) ∧
    (15 : Word).toNat ≤ 15 :=
  ⟨base_bufLength, by decide⟩

theorem witness_MultipleCoilWriteUnpacksTheData : base.buf.length = 140 ∧ (9 : Word).toNat ≤ 16 ∧
    (7 : Word).toNat ≤ 15 ∧ (7 : Word).toNat + (9 : Word).toNat ≤ 16 ∧
    ((9 : Word).toNat + 7) / 8 ≤ [0xFF, (0x01 : Byte)].length :=
  ⟨base_bufLength, by decide⟩

/-- A read up to the declared count, and an aliased one of 67 registers. -/
theorem witness_RegisterReadsAnswerTheWords : base.buf.length = 140 ∧ base.map.holdLen ≤ base.map.hr.length ∧
    base.map.inLen ≤ base.map.ir.length ∧
    (((0 : Word).toNat + (8 : Word).toNat) % 256 ≤ base.map.holdLen ∧ (8 : Word).toNat ≤ 67) ∧
    (((190 : Word).toNat + (67 : Word).toNat) % 256 ≤ base.map.holdLen ∧ (67 : Word).toNat ≤ 67) ∧
    ((189 : Word).toNat + (67 : Word).toNat) % 256 ≤ base.map.inLen :=
  ⟨base_bufLength, by decide⟩

theorem witness_LongRegisterReadOverflowsTheResponse : 68 ≤ (68 : Word).toNat ∧
    ((188 : Word).toNat + (68 : Word).toNat) % 256 ≤ base.map.holdLen ∧
    ((188 : Word).toNat + (68 : Word).toNat) % 256 ≤ base.map.inLen := by
  decide

/-- The last register, and an aliased address. -/
theorem witness_RegisterWriteWritesOneRegister : base.buf.length = 140 ∧ base.map.holdLen ≤ base.map.hr.length ∧
    ((7 : Word).toNat + 1) % 256 ≤ base.map.holdLen ∧ ((255 : Word).toNat + 1) % 256 ≤ base.map.holdLen :=
  ⟨base_bufLength, by decide⟩

/-- A positive low byte of the quantity, and a negative one. -/
theorem witness_MultipleRegisterWriteIsClamped : base.buf.length = 140 ∧ base.map.holdLen ≤ base.map.hr.length ∧
    (((0 : Word).toNat + (0x0102 : Word).toNat) % 256 ≤ base.map.holdLen ∧
      2 = (if (0x0102 : Word).toNat % 256 < 128 then (0x0102 : Word).toNat % 256 else 0) ∧
      2 * 2 ≤ [0xAA, 0xAA, 0xBB, (0xBB : Byte)].length) ∧
    (((1 : Word).toNat + (255 : Word).toNat) % 256 ≤ base.map.holdLen ∧
      0 = (if (255 : Word).toNat % 256 < 128 then (255 : Word).toNat % 256 else 0) ∧ 2 * 0 ≤ ([] : List Byte).length) :=
  ⟨base_bufLength, by decide⟩

theorem witness_ReportSlaveIdAnswersTheIdentification : base.buf.length = 140 := base_bufLength

/-- The last word of the store, and no word at its end. -/
theorem witness_FileRecordWriteCopiesTheData : base.buf.length = 140 ∧ base.nv.wf ∧
    (2 * (7 : Word).toNat + 2 * (1 : Word).toNat ≤ base.cfg.nvCapacity ∧
      2 * (1 : Word).toNat ≤ [0xDE, (0xAD : Byte)].length) ∧
    (2 * (8 : Word).toNat + 2 * (0 : Word).toNat ≤ base.cfg.nvCapacity ∧ 2 * (0 : Word).toNat ≤ ([] : List Byte).length) :=
  ⟨base_bufLength, by decide⟩

theorem witness_IllegalFunctionTakesException1 : base.buf.length = 140 := base_bufLength

theorem witness_BitRangeViolations : base.buf.length = 140 ∧ 16 < (17 : Word).toNat ∧
    ((0 : Word).toNat ≤ 16 ∧ (15 < (16 : Word).toNat ∨ 16 < (16 : Word).toNat + (0 : Word).toNat)) ∧
    ((9 : Word).toNat ≤ 16 ∧ (15 < (8 : Word).toNat ∨ 16 < (8 : Word).toNat + (9 : Word).toNat)) ∧
    (0 : Word).toNat = 0 ∧ (15 : Word).toNat ≤ 15 :=
  ⟨base_bufLength, by decide⟩

theorem witness_CoilWriteViolations : base.buf.length = 140 ∧ ((0x01 : Byte) ≠ 0x00 ∧ (0x01 : Byte) ≠ 0xFF) ∧
    ((0xFF : Byte) = 0x00 ∨ (0xFF : Byte) = 0xFF) ∧ 15 < (16 : Word).toNat :=
  ⟨base_bufLength, by decide⟩

theorem witness_EndAddressViolations : base.buf.length = 140 ∧
    base.map.holdLen < ((0 : Word).toNat + (9 : Word).toNat) % 256 ∧
    base.map.inLen < ((0 : Word).toNat + (1 : Word).toNat) % 256 ∧ base.map.holdLen < ((8 : Word).toNat + 1) % 256 ∧
    (((0 : Word).toNat + (8 : Word).toNat) % 256 ≤ base.map.holdLen ∧ (∃ t, exec (.rdhold 0 8 []) base = .next t) ∧
      ∃ t, exec (.wrmreg 0 8 16 []) base = .next t) ∧
    (((0 : Word).toNat + (0 : Word).toNat) % 256 ≤ base.map.inLen ∧ ∃ t, exec (.rdinp 0 0 []) base = .next t) ∧
    (((7 : Word).toNat + 1) % 256 ≤ base.map.holdLen ∧ ∃ t, exec (.wrreg 7 0 []) base = .next t) :=
  ⟨base_bufLength, by decide, by decide, by decide, ⟨by decide, base_exec_next _, base_exec_next _⟩,
    ⟨by decide, base_exec_next _⟩, by decide, base_exec_next _⟩

theorem witness_FileRecordViolations : base.buf.length = 140 ∧ (7 : Byte) ≠ 6 ∧ (0x0101 : Word) ≠ 1 ∧
    base.cfg.nvCapacity < 2 * (8 : Word).toNat + 2 * (1 : Word).toNat ∧
    (2 * (7 : Word).toNat + 2 * (1 : Word).toNat ≤ base.cfg.nvCapacity ∧
      ∃ t, exec (.wrfile 9 6 1 7 1 [0xDE, 0xAD]) base = .next t) :=
  ⟨base_bufLength, by decide, by decide, by decide, by decide, base_exec_next _⟩

theorem witness_MissingDataGetsException3 : base.buf.length = 140 ∧
    ((9 : Word).toNat ≤ 16 ∧ (0 : Word).toNat ≤ 15 ∧ (0 : Word).toNat + (9 : Word).toNat ≤ 16 ∧
      [(0xFF : Byte)].length < ((9 : Word).toNat + 7) / 8) ∧
    (((0 : Word).toNat + (2 : Word).toNat) % 256 ≤ base.map.holdLen ∧
      [(0xAA : Byte), 0xAA].length < 2 * (if (2 : Word).toNat % 256 < 128 then (2 : Word).toNat % 256 else 0)) ∧
    (2 * (0 : Word).toNat + 2 * (2 : Word).toNat ≤ base.cfg.nvCapacity ∧
      [(0xDE : Byte), 0xAD].length < 2 * (2 : Word).toNat) :=
  ⟨base_bufLength, by decide⟩

theorem witness_BuildExceptionRewritesTheHead : base.buf.length = 140 := base_bufLength

theorem witness_SendHandsOverTheWholeFrame : (base.setFrameLen 138).buf.length = 140 ∧ (base.setFrameLen 138).frameLen ≤ 138 :=
  ⟨base_bufLength, Nat.le_refl _⟩

/-- The two implications of the statement: a function byte without bit 7 and one with it. -/
theorem witness_TakingAnExceptionSendsFiveBytes : base.buf.length = 140 ∧
    (byteAt ({ base with buf := [1, 0x83] ++ List.replicate 138 0 } : State).buf 1).getLsbD 7 = true :=
  ⟨base_bufLength, by decide +kernel⟩

theorem witness_ReadingRequestsStoreNothing :
    (∃ t, exec (.rdcoil 0 1 []) base = .next t) ∧ (∃ t, exec (.rddisc 0 1 []) base = .next t) ∧
    (∃ t, exec (.rdhold 0 1 []) base = .next t) ∧ (∃ t, exec (.rdinp 0 0 []) base = .next t) ∧
    (∃ t, exec (.rptid []) base = .next t) ∧ ∃ t, exec (.illegal 7 []) base = .next t :=
  ⟨base_exec_next _, base_exec_next _, base_exec_next _, base_exec_next _, base_exec_next _, base_exec_next _⟩

theorem witness_CoilWritesKeepEverythingElse :
    (∃ t, exec (.wrcoil 15 0xFF 0 []) base = .next t) ∧ ∃ t, exec (.wrmcoil 0 16 2 [0x34, 0x12]) base = .next t :=
  ⟨base_exec_next _, base_exec_next _⟩

theorem witness_RegisterWritesKeepEverythingElse :
    (∃ t, exec (.wrreg 7 0xBEEF []) base = .next t) ∧ ∃ t, exec (.wrmreg 7 1 2 [0x12, 0x34]) base = .next t :=
  ⟨base_exec_next _, base_exec_next _⟩

theorem witness_FileRecordWriteKeepsEverythingElse : ∃ t, exec (.wrfile 9 6 1 7 1 [0xDE, 0xAD]) base = .next t :=
  base_exec_next _

theorem base_inv (f : List Byte) : (base.placeFrame f).Inv :=
  ⟨base_bufLength, rfl, Nat.le_refl _, List.Pairwise.nil, fun _ h => absurd h (by simp [base, State.placeFrame, State.reset]),
    fun _ h => absurd h (by simp [base, State.placeFrame, State.reset])⟩

/-- A state that meets the invariant and answers a request. -/
theorem witness_EveryStepKeepsTheInvariant : ∃ t, (base.placeFrame rdhold01).Inv ∧ step (base.placeFrame rdhold01) = .next t :=
  (exists_next (p := fun _ => true) (by decide +kernel)).imp fun _ h => ⟨base_inv _, h.1⟩

theorem witness_PollsTerminateAndStayInBounds : base.buf.length = 140 ∧ base.Configured := ⟨base_bufLength, base_configured⟩

theorem witness_SlaveIdOutsideItsRangeIsRefused :
    ({ base with slaveId := 0 } : State).slaveId.toNat = 0 ∧ 247 < ({ base with slaveId := 248 } : State).slaveId.toNat := by
  decide

/-- Both ends of the address range; and a declared count of 256, and one above the array length. -/
theorem witness_DeclaredCountsOutsideTheirRangeAreRefused :
    1 ≤ base.slaveId.toNat ∧ ({ base with slaveId := 247 } : State).slaveId.toNat ≤ 247 ∧
    step { base with map := { base.map with holdLen := 256 } } = .refused .declaredCountOutOfRange ∧
    step { base with map := { base.map with holdLen := 9 } } = .refused .declaredCountOutOfRange :=
  ⟨by decide, by decide, by rfl, by rfl⟩

theorem witness_NoStepWritesTheSlaveId : ∃ t,
    (base.placeFrame rdhold01).buf.length = 140 ∧ step (base.placeFrame rdhold01) = .next t :=
  (exists_next (p := fun _ => true) (by decide +kernel)).imp fun _ h => ⟨base_bufLength, h.1⟩

/-- A step for each outcome. -/
theorem witness_OutcomeFixesTheCounters :
    (∃ t, step base = .next t ∧ (t.outcome == some .noFrame) = true) ∧
    (∃ t, step oneByte = .next t ∧ (t.outcome == some .pending) = true) ∧
    (∃ t, step (base.placeFrame (List.replicate 141 1)) = .next t ∧ (t.outcome == some .captureOverflow) = true) ∧
    (∃ t, step (base.placeFrame [9]) = .next t ∧ (t.outcome == some .notAddressed) = true) ∧
    (∃ t, step (base.placeFrame [1, 2, 3]) = .next t ∧ (t.outcome == some .noReply) = true) ∧
    (∃ t, step (base.placeFrame [0x01, 0x07, 0x41, 0xE2]) = .next t ∧
      (t.outcome == some (.exception .illegalFunction)) = true) ∧
    (∃ t, step (base.placeFrame [0x01, 0x03, 0x00, 0x00, 0x01, 0x00, 0x44, 0x5A]) = .next t ∧
      (t.outcome == some .respOverflow) = true) ∧
    ∃ t, step (base.placeFrame rdhold01) = .next t ∧ (t.outcome == some (.done 7)) = true :=
  ⟨exists_next (by decide +kernel), exists_next (by decide +kernel), exists_next (by decide +kernel),
    exists_next (by decide +kernel), exists_next (by decide +kernel), exists_next (by decide +kernel),
    exists_next (by decide +kernel), exists_next (by decide +kernel)⟩

theorem witness_CountersNeverExceedTheReceived : ∃ t, (base.placeFrame rdhold01).txCnt.toNat ≤ (base.placeFrame rdhold01).rxCnt.toNat ∧
    (base.placeFrame rdhold01).errCnt.toNat ≤ (base.placeFrame rdhold01).rxCnt.toNat ∧
    (base.placeFrame rdhold01).rxCnt.toNat < 65535 ∧ step (base.placeFrame rdhold01) = .next t :=
  (exists_next (p := fun _ => true) (by decide +kernel)).imp fun _ h => ⟨by decide, by decide, by decide, h.1⟩

/-- A Poll that answers and one that does not. -/
theorem witness_OneFrameIsSentPerAnsweredPoll :
    (∃ t, step (base.placeFrame rdhold01) = .next t ∧ (t.tx.length == 1) = true) ∧
    ∃ t, step base = .next t ∧ (t.tx.length == 0) = true :=
  ⟨exists_next (by decide +kernel), exists_next (by decide +kernel)⟩

/-- A valid frame for the device; and each of the silent kinds. -/
theorem witness_ResponseExactlyWhenTheChecksumIsValid :
    (∃ s : State, s.buf.length = 140 ∧ s.Drains ∧ s.taken.length ≤ 140 ∧ byteAt s.taken 0 = s.slaveId ∧
      4 ≤ s.taken.length ∧ verify s.taken = true) ∧
    (∃ s : State, s.Drains ∧ 140 < s.taken.length) ∧ (∃ s : State, s.Drains ∧ byteAt s.taken 0 ≠ s.slaveId) ∧
    (∃ s : State, s.Drains ∧ s.taken.length < 4) ∧ ∃ s : State, s.Drains ∧ verify s.taken = false :=
  ⟨⟨base.placeFrame rdhold01, base_bufLength, placed_drains (by simp [rdhold01]), by decide, by decide, by decide,
      by decide +kernel⟩,
    witness_DrainTakesEverythingUnread.2, ⟨base.placeFrame [9], placed_drains (by simp), by decide⟩,
    ⟨base.placeFrame [9], placed_drains (by simp), by decide⟩,
    ⟨base.placeFrame [0x01, 0x03, 0x00, 0x00, 0x00, 0x01, 0x84, 0x0B], placed_drains (by simp), by decide +kernel⟩⟩

theorem witness_StaleFrameBytesNeverMatter : ∃ t, (base.placeFrame rdhold01).buf.length = 140 ∧
    (List.replicate 140 (0xFF : Byte)).length = 140 ∧ step (base.placeFrame rdhold01) = .next t :=
  (exists_next (p := fun _ => true) (by decide +kernel)).imp fun _ h => ⟨base_bufLength, by simp, h.1⟩

theorem witness_WatchdogNeverMatters : ∃ t, step (base.placeFrame rdhold01) = .next t :=
  (exists_next (p := fun _ => true) (by decide +kernel)).imp fun _ h => h.1

/-- An idle assembler that stays idle, and one that starts to count. -/
theorem witness_DeadlineOfAnIdleAssemblerNeverMatters :
    (∃ t, base.lastCount = 0 ∧ step base = .next t ∧ (t.lastCount == 0) = true) ∧
    ∃ t, oneByte.lastCount = 0 ∧ step oneByte = .next t ∧ (t.lastCount != 0) = true :=
  ⟨(exists_next (p := fun t => t.lastCount == 0) (by decide +kernel)).imp fun _ h => ⟨rfl, h.1, h.2⟩,
    (exists_next (p := fun t => t.lastCount != 0) (by decide +kernel)).imp fun _ h => ⟨rfl, h.1, h.2⟩⟩

theorem witness_ReplayedWriteRequestsAreIdempotent : ∃ t,
    base.buf.length = 140 ∧ base.misconfigured = none ∧ wrcoil3.length ≤ 140 ∧ byteAt wrcoil3 0 = base.slaveId ∧
    decode wrcoil3 = .instr (.wrcoil 3 0xFF 0 []) ∧
    (Instr.wrcoil 3 0xFF 0 []).functionCode.toNat ∈ [5, 6, 15, 16, 21] ∧ step (base.placeFrame wrcoil3) = .next t ∧
    t.outcome = some (.done 8) :=
  (exists_next (p := fun t => decide (t.outcome = some (.done 8))) (by decide +kernel)).imp fun _ h =>
    ⟨base_bufLength, base_configured, by decide, by decide, by decide +kernel, by decide, h.1, by simpa using h.2⟩

/-- Nothing scheduled, an ordinary Poll, and a power-up. -/
theorem witness_OnlyPowerUpResetsTheEngine : base.schedule = [] ∧
    (∃ p rest, twoPolls.schedule = p :: rest ∧ p.powerUp = false) ∧
    ∃ p rest, cycled.schedule = p :: rest ∧ p.powerUp = true :=
  ⟨rfl, ⟨_, _, rfl, rfl⟩, ⟨_, _, rfl, rfl⟩⟩

/-- Power-up with an empty queue, and with bytes in it. -/
theorem witness_FirstPollAfterPowerUp :
    (∃ s : State, s.powersUp = true ∧ s.Configured ∧ s.polled.rxq = []) ∧
    cycled.powersUp = true ∧ cycled.Configured ∧ cycled.polled.rxq ≠ [] :=
  ⟨⟨{ base with schedule := [{ powerUp := true, now := 2, arrived := [], late := [], map := none }] }, rfl,
      base_configured, rfl⟩, rfl, base_configured, by decide⟩

/-- An address nothing wrote; the last record of the store; a record of length 0 at its end. -/
theorem witness_StoreReadAnswersTheByteWritten :
    (3 ≠ 14 ∧ ∀ c ∈ ([(14, 0xDE), (15, 0xAD)] : Memory), c.1 ≠ 3) ∧
    (2 * (7 : Word).toNat + 2 * (1 : Word).toNat ≤ base.cfg.nvCapacity ∧
      2 * (1 : Word).toNat ≤ [(0xDE : Byte), 0xAD].length) ∧
    (2 * (8 : Word).toNat + 2 * (0 : Word).toNat ≤ base.cfg.nvCapacity ∧ 2 * (0 : Word).toNat ≤ ([] : List Byte).length) := by
  decide

end Sys2Proof.Tests
end

section
/-! A configuration outside the spec: what makes a step refuse it, and the refusal of `SLAVE_ID` (00_scope.md R11). -/

namespace Sys2Proof.Machine

/-- A step refuses what the device with the inputs of the next Poll in place is misconfigured for. -/
theorem step_misconfigured {s : State} {r : Refusal} (h : s.polled.misconfigured = some r) : step s = .refused r := by
  rw [step_eq, h]

/-- R11 is examined before the declared counts (R273). -/
theorem misconfigured_of_slaveId_outOfRange {s : State} (h : s.slaveId.toNat = 0 ∨ 247 < s.slaveId.toNat) :
    s.misconfigured = some .slaveIdOutOfRange :=
  if_pos h

/-- Settles O46: the inputs of a Poll, a power-up included, leave `SLAVE_ID` as it is, so the step refuses it. -/
theorem slaveIdOutsideItsRangeIsRefused : Obligations.SlaveIdOutsideItsRangeIsRefused := by
  unfold Obligations.SlaveIdOutsideItsRangeIsRefused
  intro s h
  have hpolled : s.polled.slaveId.toNat = 0 ∨ 247 < s.polled.slaveId.toNat := by
    rwa [polled_slaveId]
  exact step_misconfigured (misconfigured_of_slaveId_outOfRange hpolled)

end Sys2Proof.Machine
end

section
/-! What a Poll of a configured device can leave (40_poll_and_frame_assembler.md R100): it waits for more bytes, or it
drains and ends in one of four ways. -/

namespace Sys2Proof.Machine

variable {s t : State}

/-- A Poll that consumes nothing (R102 to R104). -/
inductive Waits (s t : State) : Prop where
  /-- the recorded count and the deadline stand -/
  | unchanged (o : PollOutcome) (ho : o = .noFrame ∨ o = .pending) (h : t = (s.polled.enqueue s.lateBytes).report o)
  /-- a new count is recorded -/
  | recorded (h : t = (s.polled.recordCount.enqueue s.lateBytes).report .pending)

/-- A Poll that drains the queue (R105 to R108, R132, R133). -/
inductive DrainEnds (s t : State) : Prop where
  /-- more bytes than the RawFrame holds -/
  | overflowed (long : maxFrame < s.taken.length) (h : t = (s.polled.drain s.lateBytes).dropped .captureOverflow)
  /-- a frame for another device -/
  | notAddressed (other : byteAt s.taken 0 ≠ s.slaveId) (h : t = s.capture.ignored .notAddressed)
  /-- a frame for this device that gets no reply -/
  | noReply (bad : s.taken.length < 4 ∨ verify s.taken = false) (h : t = s.capture.dropped .noReply)
  /-- a valid frame for this device -/
  | served (fits : s.taken.length ≤ maxFrame) (addressed : byteAt s.taken 0 = s.slaveId)
      (atLeast : 4 ≤ s.taken.length) (valid : verify s.taken = true) (h : Ends s.capture t)

theorem step_of_drains (hb : s.buf.length = maxFrame) (h : s.Drains) : ∃ t, step s = .next t ∧ DrainEnds s t := by
  by_cases hl : maxFrame < s.taken.length
  · exact ⟨_, step_overflow h hl, .overflowed hl rfl⟩
  · have hfits : s.taken.length ≤ maxFrame := Nat.le_of_not_lt hl
    have hcb : s.capture.buf.length = maxFrame := capture_bufLength hb hfits
    have hcases := serve_cases s.capture
    rw [capture_frame hfits, capture_slaveId] at hcases
    rw [step_captured h hfits]
    obtain ⟨hne, hs⟩ | ⟨-, hbad, hs⟩ | ⟨ha, h4, hv, ⟨fc, -, hs⟩ | ⟨i, -, hs⟩⟩ := hcases
    · exact ⟨_, hs, .notAddressed hne rfl⟩
    · exact ⟨_, hs, .noReply hbad rfl⟩
    · exact ⟨_, hs, .served hfits ha h4 hv (.exception _ (takeException_excepts hcb _))⟩
    · obtain ⟨t, he, hends⟩ := exec_ends hcb i
      exact ⟨t, hs.trans he, .served hfits ha h4 hv hends⟩

theorem step_of_configured (hb : s.buf.length = maxFrame) (hc : s.Configured) :
    ∃ t, step s = .next t ∧ (Waits s t ∨ s.Drains ∧ DrainEnds s t) := by
  obtain ⟨r, hr, -⟩ | ⟨-, -, h⟩ | ⟨-, h⟩ | ⟨-, -, -, -, h⟩ | ⟨hd, -⟩ | ⟨hd, -⟩ := step_cases s
  · exact absurd (hr.symm.trans hc) (by simp)
  · exact ⟨_, h, .inl (.unchanged .noFrame (.inl rfl) rfl)⟩
  · exact ⟨_, h, .inl (.recorded rfl)⟩
  · exact ⟨_, h, .inl (.unchanged .pending (.inr rfl) rfl)⟩
  all_goals
    obtain ⟨t, hs, hends⟩ := step_of_drains hb hd
    exact ⟨t, hs, .inr ⟨hd, hends⟩⟩

theorem configured_of_step (h : step s = .next t) : s.Configured := by
  cases hm : s.polled.misconfigured with
  | none => exact hm
  | some r => rw [step_misconfigured hm] at h; cases h

theorem step_inversion (hb : s.buf.length = maxFrame) (h : step s = .next t) :
    Waits s t ∨ s.Drains ∧ DrainEnds s t := by
  obtain ⟨u, hu, hends⟩ := step_of_configured hb (configured_of_step h)
  obtain rfl : u = t := by injection hu.symm.trans h
  exact hends

/-! ## What every way a request ends keeps -/

/-- What no ended request touches, and the RawFrame between Polls (R30). -/
structure ClosesTransaction (s t : State) : Prop where
  slaveId : t.slaveId = s.slaveId
  cfg : t.cfg = s.cfg
  rxq : t.rxq = s.rxq
  lastCount : t.lastCount = s.lastCount
  bufLength : t.buf.length = maxFrame
  frameLen : t.frameLen = 0

theorem Ends.closes (hb : s.buf.length = maxFrame) (h : Ends s t) : ClosesTransaction s t := by
  cases h with
  | exception c h => obtain ⟨b, hlen, rfl⟩ := h; exact ⟨rfl, rfl, rfl, rfl, hlen, rfl⟩
  | overflow h => subst h; exact ⟨rfl, rfl, rfl, rfl, hb, rfl⟩
  | answer body cmd co hr nv free head atLeast atMost hrLength hrAbove nvWf nvBelow nvAbove h =>
    obtain ⟨b, hlen, -, rfl⟩ := h; exact ⟨rfl, rfl, rfl, rfl, hlen, rfl⟩

theorem Ends.outcome (h : Ends s t) : ∃ o, t.outcome = some o ∧ o ≠ .noFrame ∧ o ≠ .pending := by
  cases h with
  | exception c h => obtain ⟨b, -, rfl⟩ := h; exact ⟨_, rfl, by simp, by simp⟩
  | overflow h => subst h; exact ⟨_, rfl, by simp, by simp⟩
  | answer body cmd co hr nv free head atLeast atMost hrLength hrAbove nvWf nvBelow nvAbove h =>
    obtain ⟨b, -, -, rfl⟩ := h; exact ⟨_, rfl, by simp, by simp⟩

theorem byteAt_of_take_eq {f g : List Byte} {n i : Nat} (h : f.take n = g.take n) (hi : i < n) :
    byteAt f i = byteAt g i := by
  have hget : (f.take n)[i]? = (g.take n)[i]? := by rw [h]
  rw [List.getElem?_take_of_lt hi, List.getElem?_take_of_lt hi] at hget
  rw [byteAt, byteAt, List.getD_eq_getElem?_getD, List.getD_eq_getElem?_getD, hget]

/-- An ended request sent one frame, which begins with the address byte of the request, or its response was too long
(R182, R218). -/
theorem Ends.sent (h : Ends s t) :
    (∃ body, 3 ≤ body.length ∧ body.length ≤ 138 ∧ byteAt body 0 = byteAt s.buf 0 ∧
      t.tx = s.tx ++ [withChecksum body]) ∨
    t.tx = s.tx ∧ t.outcome = some .respOverflow := by
  cases h with
  | exception c h =>
    obtain ⟨b, -, rfl⟩ := h
    exact .inl ⟨[byteAt s.buf 0, byteAt s.buf 1 ||| 0x80, c.toByte], by simp, by simp, rfl, rfl⟩
  | overflow h => subst h; exact .inr ⟨rfl, rfl⟩
  | answer body cmd co hr nv free head atLeast atMost hrLength hrAbove nvWf nvBelow nvAbove h =>
    obtain ⟨b, -, -, rfl⟩ := h
    exact .inl ⟨body, atLeast, atMost, byteAt_of_take_eq head (by omega), rfl⟩

/-- An ended request wrote only coils, holding registers below the declared count and store bytes below the capacity
(R46). -/
structure WritesInBounds (s t : State) : Prop where
  map : t.map = { s.map with co := t.map.co, hr := t.map.hr }
  hrLength : t.map.hr.length = s.map.hr.length
  hrAbove : ∀ j : Nat, s.map.holdLen ≤ j → t.map.hr[j]? = s.map.hr[j]?
  nvWf : s.nv.wf → t.nv.wf
  nvBelow : ∀ c ∈ t.nv, c ∈ s.nv ∨ c.1 < s.cfg.nvCapacity
  nvAbove : ∀ a, s.cfg.nvCapacity ≤ a → t.nv.read a = s.nv.read a

theorem WritesInBounds.of_eq (hmap : t.map = s.map) (hnv : t.nv = s.nv) : WritesInBounds s t where
  map := by rw [hmap]
  hrLength := by rw [hmap]
  hrAbove := fun _ _ => by rw [hmap]
  nvWf := fun h => by rwa [hnv]
  nvBelow := fun c hc => .inl (hnv ▸ hc)
  nvAbove := fun _ _ => by rw [hnv]

theorem Ends.inBounds (h : Ends s t) : WritesInBounds s t := by
  cases h with
  | exception c h => obtain ⟨b, -, rfl⟩ := h; exact .of_eq rfl rfl
  | overflow h => subst h; exact .of_eq rfl rfl
  | answer body cmd co hr nv free head atLeast atMost hrLength hrAbove nvWf nvBelow nvAbove h =>
    obtain ⟨b, -, -, rfl⟩ := h
    exact ⟨rfl, hrLength, hrAbove, nvWf, nvBelow, nvAbove⟩

/-! ## The same of every Poll that drains -/

theorem drain_bufLength (late : List Byte) (hb : s.buf.length = maxFrame) :
    (s.drain late).buf.length = maxFrame := by
  have hlen : ((s.rxq ++ late).take maxFrame).length ≤ maxFrame := List.length_take_le _ _
  rw [drain_buf, length_overwrite (by rw [hb]; omega), hb]

theorem DrainEnds.closes (hb : s.buf.length = maxFrame) (h : DrainEnds s t) : ClosesTransaction s.capture t := by
  have hdrained : s.capture.buf.length = maxFrame := drain_bufLength s.lateBytes (polled_bufLength hb)
  cases h with
  | overflowed long h => subst h; exact ⟨rfl, rfl, rfl, rfl, hdrained, rfl⟩
  | notAddressed other h => subst h; exact ⟨rfl, rfl, rfl, rfl, hdrained, rfl⟩
  | noReply bad h => subst h; exact ⟨rfl, rfl, rfl, rfl, hdrained, rfl⟩
  | served fits addressed atLeast valid h => exact h.closes hdrained

theorem DrainEnds.outcome (h : DrainEnds s t) : ∃ o, t.outcome = some o ∧ o ≠ .noFrame ∧ o ≠ .pending := by
  cases h with
  | overflowed long h => subst h; exact ⟨_, rfl, by simp, by simp⟩
  | notAddressed other h => subst h; exact ⟨_, rfl, by simp, by simp⟩
  | noReply bad h => subst h; exact ⟨_, rfl, by simp, by simp⟩
  | served fits addressed atLeast valid h => exact h.outcome

theorem DrainEnds.inBounds (h : DrainEnds s t) : WritesInBounds s.capture t := by
  cases h with
  | overflowed long h => subst h; exact .of_eq rfl rfl
  | notAddressed other h => subst h; exact .of_eq rfl rfl
  | noReply bad h => subst h; exact .of_eq rfl rfl
  | served fits addressed atLeast valid h => exact h.inBounds

end Sys2Proof.Machine
end

section
/-! The invariant (10_state.md R30, R41, R46): it holds at reset, and each stage of a Poll keeps it. -/

namespace Sys2Proof.Machine

variable {s t : State}

/-- Settles O42: each value is read off `State.reset`, and its SLAVE_ID is 1 (log 8). -/
theorem powerUpLeavesTheEngineIdle : Obligations.PowerUpLeavesTheEngineIdle := by
  unfold Obligations.PowerUpLeavesTheEngineIdle
  refine ⟨rfl, rfl, rfl, rfl, rfl, rfl, rfl, rfl, ?_, ?_⟩ <;> decide

/-- Settles O43: the free bytes of `F` are 140, nothing is counted, stored or sent. -/
theorem resetSatisfiesTheInvariant : Obligations.ResetSatisfiesTheInvariant := by
  unfold Obligations.ResetSatisfiesTheInvariant
  exact {
    bufLength := length_frameBytes 0
    frameLen := rfl
    counted := Nat.le_refl 0
    nvWf := List.Pairwise.nil
    nvBelow := fun _ hc => nomatch hc
    sent := fun _ hf => nomatch hf }

/-- A body of 3 to 138 bytes with the right address byte makes a frame this device may send. -/
theorem goodFrame_withChecksum {id : Byte} {body : List Byte} (h3 : 3 ≤ body.length) (h138 : body.length ≤ 138)
    (ha : byteAt body 0 = id) : GoodFrame id (withChecksum body) where
  atLeast := by rw [length_withChecksum]; omega
  atMost := by rw [length_withChecksum, maxFrame_eq]; omega
  address := (byteAt_append_left (by omega)).trans ha
  verifies := verify_withChecksum body

/-- The inputs of a Poll, a power-up included, keep the invariant. -/
theorem State.Inv.polled (h : s.Inv) : s.polled.Inv where
  bufLength := polled_bufLength h.bufLength
  frameLen := polled_frameLen h.frameLen
  counted := by
    have hq := length_polled_rxq s
    have hcount := h.counted
    obtain ⟨hc, -⟩ | hc := polled_count s <;> omega
  nvWf := by rw [polled_nv]; exact h.nvWf
  nvBelow := by rw [polled_nv, polled_cfg]; exact h.nvBelow
  sent := by rw [polled_tx, polled_slaveId]; exact h.sent

theorem State.Inv.report (h : s.Inv) (o : PollOutcome) : (s.report o).Inv :=
  ⟨h.bufLength, h.frameLen, h.counted, h.nvWf, h.nvBelow, h.sent⟩

theorem State.Inv.countErr (h : s.Inv) : s.countErr.Inv :=
  ⟨h.bufLength, h.frameLen, h.counted, h.nvWf, h.nvBelow, h.sent⟩

/-- `frame_len` is 0 again however a frame ends (R30). -/
theorem State.Inv.setFrameLen_zero (h : s.Inv) : (s.setFrameLen 0).Inv :=
  ⟨h.bufLength, rfl, h.counted, h.nvWf, h.nvBelow, h.sent⟩

theorem State.Inv.recordCount (h : s.Inv) : s.recordCount.Inv :=
  ⟨h.bufLength, h.frameLen, Nat.le_refl _, h.nvWf, h.nvBelow, h.sent⟩

theorem State.Inv.enqueue (h : s.Inv) (bs : List Byte) : (s.enqueue bs).Inv where
  bufLength := h.bufLength
  frameLen := h.frameLen
  counted := by
    have hcount := h.counted
    rw [enqueue_rxq, enqueue_lastCount, List.length_append]; omega
  nvWf := h.nvWf
  nvBelow := h.nvBelow
  sent := h.sent

theorem State.Inv.drain (h : s.Inv) (late : List Byte) : (s.drain late).Inv where
  bufLength := drain_bufLength late h.bufLength
  frameLen := h.frameLen
  counted := Nat.le_refl 0
  nvWf := h.nvWf
  nvBelow := h.nvBelow
  sent := h.sent

/-- A request ends with the invariant when it holds of the state it was captured in, the length of the captured frame
apart. -/
theorem State.Inv.of_ends (h : (s.setFrameLen 0).Inv) (ha : byteAt s.buf 0 = s.slaveId) (he : Ends s t) : t.Inv := by
  obtain ⟨hid, hcfg, hrxq, hcount, hbuf, hlen⟩ := Ends.closes (s := s) h.bufLength he
  refine ⟨hbuf, hlen, ?_, he.inBounds.nvWf h.nvWf, fun c hc => ?_, ?_⟩
  · rw [hcount, hrxq]; exact h.counted
  · rw [hcfg]
    exact (he.inBounds.nvBelow c hc).elim (h.nvBelow c) id
  · rw [hid]
    obtain ⟨body, h3, h138, haddr, htx⟩ | ⟨htx, -⟩ := he.sent
    · rw [htx]
      intro f hf
      obtain hf | hf := List.mem_append.1 hf
      · exact h.sent f hf
      · rw [List.mem_singleton.1 hf]
        exact goodFrame_withChecksum h3 h138 (haddr.trans ha)
    · rw [htx]; exact h.sent

/-- Settles O44: the inputs of the Poll keep the invariant, and then so does each way the Poll can go. -/
theorem everyStepKeepsTheInvariant : Obligations.EveryStepKeepsTheInvariant := by
  unfold Obligations.EveryStepKeepsTheInvariant
  intro s t hinv hstep
  have hp : s.polled.Inv := hinv.polled
  have hd : ((s.polled.drain s.lateBytes).setFrameLen 0).Inv := (hp.drain s.lateBytes).setFrameLen_zero
  obtain hw | ⟨-, hends⟩ := step_inversion hinv.bufLength hstep
  · cases hw with
    | unchanged o ho h => rw [h]; exact (hp.enqueue _).report o
    | recorded h => rw [h]; exact (hp.recordCount.enqueue _).report .pending
  · cases hends with
    | overflowed long h => rw [h]; exact hd.countErr.report .captureOverflow
    | notAddressed other h => rw [h]; exact hd.report .notAddressed
    | noReply bad h => rw [h]; exact hd.countErr.report .noReply
    | served fits addressed atLeast valid h =>
      have hc : (s.capture.setFrameLen 0).Inv := hd
      refine hc.of_ends ?_ h
      rw [byteAt_capture fits (by omega), addressed, capture_slaveId]

end Sys2Proof.Machine
end

section
/-! What holds of every Poll (10_state.md R29, R41, R45, R46), read off the ways a step can go. -/

namespace Sys2Proof.Machine

/-- Settles O11: a Poll that waits only appends the late bytes, and none that drains reports NoFrame or Pending. -/
theorem lateBytesWaitInTheQueue : Obligations.LateBytesWaitInTheQueue := by
  unfold Obligations.LateBytesWaitInTheQueue
  intro s t hb hstep
  obtain hw | ⟨-, hends⟩ := step_inversion hb hstep
  · cases hw with
    | unchanged o ho h =>
      subst h
      exact ⟨fun _ => rfl, fun hn hp => by obtain rfl | rfl := ho <;> simp at hn hp⟩
    | recorded h => subst h; exact ⟨fun _ => rfl, fun _ hp => absurd rfl hp⟩
  · obtain ⟨o, ho, hn, hp⟩ := hends.outcome
    rw [ho]
    exact ⟨fun h => by simp [hn, hp] at h, fun _ _ => (hends.closes hb).rxq⟩

/-- Settles O45: a Poll that serves no request writes no register and no store byte, and a request writes in bounds. -/
theorem pollsTerminateAndStayInBounds : Obligations.PollsTerminateAndStayInBounds := by
  unfold Obligations.PollsTerminateAndStayInBounds
  intro s hb hc
  obtain ⟨t, hstep, hends⟩ := step_of_configured hb hc
  have hreports : (∃ o, t.outcome = some o) ∧ WritesInBounds s.capture t := by
    obtain hw | ⟨-, hends⟩ := hends
    · cases hw with
      | unchanged o ho h => subst h; exact ⟨⟨_, rfl⟩, .of_eq rfl rfl⟩
      | recorded h => subst h; exact ⟨⟨_, rfl⟩, .of_eq rfl rfl⟩
    · exact ⟨hends.outcome.imp fun _ ho => ho.1, hends.inBounds⟩
  obtain ⟨⟨o, ho⟩, hbounds⟩ := hreports
  refine ⟨t, o, hstep, ho, hbounds.map, hbounds.hrLength, hbounds.hrAbove, ?_⟩
  have habove := hbounds.nvAbove
  rwa [capture_cfg, capture_nv] at habove

/-- Settles O48: the inputs of a Poll leave SLAVE_ID and the parameters, and so does every way it can go. -/
theorem noStepWritesTheSlaveId : Obligations.NoStepWritesTheSlaveId := by
  unfold Obligations.NoStepWritesTheSlaveId
  intro s t hb hstep
  obtain hw | ⟨-, hends⟩ := step_inversion hb hstep
  · cases hw with
    | unchanged o ho h => subst h; exact ⟨polled_slaveId s, polled_cfg s⟩
    | recorded h => subst h; exact ⟨polled_slaveId s, polled_cfg s⟩
  · have hcloses := hends.closes hb
    exact ⟨hcloses.slaveId.trans (capture_slaveId s), hcloses.cfg.trans (capture_cfg s)⟩

/-- Settles O52: of the ways a drain can end, only the one with a valid frame for this device sends. -/
theorem responseExactlyWhenTheChecksumIsValid : Obligations.ResponseExactlyWhenTheChecksumIsValid := by
  unfold Obligations.ResponseExactlyWhenTheChecksumIsValid
  intro s hb hdrains
  obtain ⟨t, hstep, hends⟩ := step_of_drains hb hdrains
  refine ⟨t, hstep, ?_⟩
  cases hends with
  | overflowed long h =>
    subst h
    exact ⟨fun fits => absurd fits (Nat.not_le_of_lt long), fun _ => polled_tx s⟩
  | notAddressed other h =>
    subst h
    exact ⟨fun _ addressed => absurd addressed other, fun _ => polled_tx s⟩
  | noReply bad h =>
    subst h
    refine ⟨fun _ _ atLeast valid => ?_, fun _ => polled_tx s⟩
    obtain hshort | hinvalid := bad
    · exact absurd atLeast (Nat.not_le_of_lt hshort)
    · exact absurd valid (by simp [hinvalid])
  | served fits addressed atLeast valid h =>
    rw [maxFrame_eq] at fits
    have hsent := h.sent
    rw [capture_tx] at hsent
    refine ⟨fun _ _ _ _ => hsent.imp_left fun ⟨body, _, _, _, htx⟩ => ⟨withChecksum body, htx⟩, ?_⟩
    rintro (hlong | hother | hshort | hinvalid)
    · omega
    · exact absurd addressed hother
    · omega
    · exact absurd (valid.symm.trans hinvalid) (by simp)

end Sys2Proof.Machine
end

section
/-! The meanings in one form: what a request is checked for, what it stores, and how much of the request its response
keeps; `exec_form` ties these to `exec`, for every content of the RawFrame. -/

namespace Sys2Proof.Machine

/-- The state `s` with other bytes in `F`. -/
def State.withF (b : List Byte) (s : State) : State := { s with buf := b }

theorem withF_buf (s : State) : s.withF s.buf = s := rfl

/-- An accepted request answered: the bytes `bs` written over the request from index `n` on, `cmd` recorded, the
response sent (R78 to R80, R100). -/
def State.answerWith (n : Nat) (bs : List Byte) (fc : Byte) (addr count : Nat) (s : State) : State :=
  (((s.armWatchdog.writeF n bs).setFrameLen (n + bs.length)).setCmd fc addr count).respond

/-- The checks a meaning makes (R136 to R147, R233). -/
def failedCheck : Instr → State → Option ExcCode
  | .rdcoil start qty _, _ => checkBitRange start qty
  | .rddisc start qty _, _ => checkBitRange start qty
  | .rdhold start qty _, s => checkEndAddress s.map.holdLen start.toNat qty.toNat
  | .rdinp start qty _, s => checkEndAddress s.map.inLen start.toNat qty.toNat
  | .wrcoil start onoff _ _, _ => checkCoilWrite start onoff
  | .wrreg start _ _, s => checkEndAddress s.map.holdLen start.toNat 1
  | .wrmcoil start qty _ data, _ => (checkBitRange start qty).or (checkDataLength data.length (ceilDiv8 qty.toNat))
  | .wrmreg start qty _ data, s =>
    (checkEndAddress s.map.holdLen start.toNat qty.toNat).or (checkDataLength data.length (2 * wordCount qty))
  | .rptid _, _ => none
  | .wrfile _ reftype fileno recno reclen data, s =>
    (checkFileRange s.cfg.nvCapacity reftype fileno recno reclen).or (checkDataLength data.length (doubled reclen))
  | .illegal _ _, _ => some .illegalFunction

/-- What an answered request stores, before it is answered (R163, R164, R181, R185, R187, R206). -/
def storeEffect : Instr → State → State
  | .rdhold _ qty _, s => s.drawFree qty.toNat
  | .rdinp _ qty _, s => s.drawFree qty.toNat
  | .wrcoil start onoff _ _, s => s.setCo (setBit s.map.co start.toNat (onoff == 0xFF))
  | .wrreg start value _, s => s.setHr (writeRegister s.map.hr s.map.holdLen start.toNat value)
  | .wrmcoil start qty _ data, s => s.setCo (writeCoils s.map.co start.toNat qty.toNat data)
  | .wrmreg start qty _ data, s => s.setHr (writeWords s.map.hr s.map.holdLen start.toNat (wordCount qty) data)
  | .wrfile _ _ _ recno reclen data, s =>
    s.setNv (s.nv.writeBytes (doubled recno) (data.take (doubled reclen)))
  | _, s => s

/-- How many leading bytes of the request stand in its response (R78 to R80). -/
def keptHead : Instr → Nat
  | .wrcoil .. => 6
  | .wrreg .. => 6
  | .wrmcoil .. => 6
  | .wrmreg .. => 6
  | .wrfile .. => 3
  | _ => 2

/-- How a request ends, whatever bytes `F` holds. -/
inductive ExecForm (i : Instr) (s : State) : Prop where
  /-- a check fails -/
  | exception (c : ExcCode) (failed : failedCheck i s = some c)
      (h : ∀ b, exec i (s.withF b) = .next ((s.withF b).takeException c))
  /-- the response is too long (R182) -/
  | overflow (passed : failedCheck i s = none)
      (h : ∀ b, exec i (s.withF b) = .next ((s.withF b).armWatchdog.dropped .respOverflow))
  /-- the request is answered -/
  | answer (passed : failedCheck i s = none) (bs : List Byte) (fc : Byte) (addr count : Nat)
      (atMost : keptHead i + bs.length ≤ 138)
      (h : ∀ b, exec i (s.withF b) = .next (((storeEffect i s).withF b).answerWith (keptHead i) bs fc addr count))

theorem writeF_nil (n : Nat) (s : State) : s.writeF n [] = s := by
  simp [State.writeF, overwrite]

/-- A request answered by an echo of its first bytes (R79). -/
theorem answerWith_nil (n : Nat) (fc : Byte) (addr count : Nat) (s : State) :
    s.answerWith n [] fc addr count = ((s.armWatchdog.setFrameLen n).setCmd fc addr count).respond := by
  rw [State.answerWith, writeF_nil]; rfl

theorem keptHead_le (i : Instr) : keptHead i ≤ 138 := by
  cases i <;> simp only [keptHead] <;> omega

theorem ExecForm.of_echo {i : Instr} {s : State} (passed : failedCheck i s = none) (fc : Byte) (addr count : Nat)
    (h : ∀ b, exec i (s.withF b) =
      .next ((((storeEffect i s).withF b).armWatchdog.setFrameLen (keptHead i)).setCmd fc addr count).respond) :
    ExecForm i s :=
  .answer passed [] fc addr count (keptHead_le i) fun b => by rw [answerWith_nil]; exact h b

/-- A request answered by `bs` after its address and function byte (R78). -/
theorem ExecForm.of_written {i : Instr} {s : State} (passed : failedCheck i s = none) (bs : List Byte) (fc : Byte)
    (addr count : Nat) {n : Nat} (hk : keptHead i = 2) (hn : 2 + bs.length = n) (hm : n ≤ 138)
    (h : ∀ b, exec i (s.withF b) =
      .next (((((storeEffect i s).withF b).armWatchdog.writeF 2 bs).setFrameLen n).setCmd fc addr count).respond) :
    ExecForm i s :=
  .answer passed bs fc addr count (by rw [hk, hn]; exact hm) fun b => by rw [h, hk, State.answerWith, hn]

theorem ExecForm.of_readBits {i : Instr} {s : State} (passed : failedCheck i s = none) (fc : Byte) (w start qty : Word)
    (hk : keptHead i = 2) (hq : qty.toNat ≤ 16)
    (h : ∀ b, exec i (s.withF b) = .next (readBits fc w start qty ((storeEffect i s).withF b).armWatchdog)) :
    ExecForm i s := by
  refine .of_written passed (BitVec.ofNat 8 (ceilDiv8 qty.toNat) :: packBits w start.toNat qty.toNat) fc start.toNat
    qty.toNat hk (n := 3 + ceilDiv8 qty.toNat) ?_ ?_ h
  · rw [List.length_cons, length_packBits]; omega
  · rw [ceilDiv8]; omega

theorem ExecForm.of_readRegisters {i : Instr} {s : State} (passed : failedCheck i s = none) (fc : Byte)
    (arr : List Word) (len : Nat) (start qty : Word) (hk : keptHead i = 2) (he : storeEffect i s = s.drawFree qty.toNat)
    (h : ∀ b, exec i (s.withF b) = .next (readRegisters fc arr len start qty (s.withF b).armWatchdog)) :
    ExecForm i s := by
  by_cases hq : qty.toNat ≤ 67
  · refine .of_written passed (BitVec.ofNat 8 (2 * qty.toNat) ::
      wordBytes (readWords arr len start.toNat qty.toNat s.freeIdx)) fc start.toNat qty.toNat hk
      (n := 3 + 2 * qty.toNat) ?_ (by omega) fun b => ?_
    · rw [List.length_cons, length_wordBytes, length_readWords]; omega
    · rw [h, he, readRegisters, if_neg (by rw [maxFrame_eq]; omega)]; rfl
  · exact .overflow passed fun b => by rw [h, readRegisters_overflow fc arr len start (by omega)]

theorem failedCheck_withF (i : Instr) (s : State) (b : List Byte) : failedCheck i (s.withF b) = failedCheck i s := by
  cases i <;> rfl

/-- A request that fails a check takes the exception the check names. -/
theorem exec_of_failedCheck {i : Instr} {s : State} {c : ExcCode} (h : failedCheck i s = some c) :
    exec i s = .next (s.takeException c) := by
  cases i with
  | rptid r => cases h
  | illegal fc p => cases h; rfl
  | _ =>
    simp only [failedCheck] at h
    simp only [exec, execRdcoil, execRddisc, execRdhold, execRdinp, execWrcoil, execWrreg, execWrmcoil, execWrmreg,
      execWrfile, h]

theorem exec_form (i : Instr) (s : State) : ExecForm i s := by
  cases hc : failedCheck i s with
  | some c => exact .exception c hc fun b => exec_of_failedCheck ((failedCheck_withF i s b).trans hc)
  | none =>
    have hpassed := hc
    cases i <;> simp only [failedCheck] at hc
    case rdcoil start qty r =>
      exact .of_readBits hpassed 1 s.map.co start qty rfl (checkBitRange_none hc).1 fun b => by
        simp only [exec, execRdcoil, hc]; rfl
    case rddisc start qty r =>
      exact .of_readBits hpassed 2 s.map.di start qty rfl (checkBitRange_none hc).1 fun b => by
        simp only [exec, execRddisc, hc]; rfl
    case rdhold start qty r =>
      exact .of_readRegisters hpassed 3 s.map.hr s.map.holdLen start qty rfl rfl fun b => by
        simp only [exec, execRdhold, State.withF, hc]
    case rdinp start qty r =>
      exact .of_readRegisters hpassed 4 s.map.ir s.map.inLen start qty rfl rfl fun b => by
        simp only [exec, execRdinp, State.withF, hc]
    case wrcoil start onoff ig r =>
      exact .of_echo hpassed 5 start.toNat 1 fun b => by simp only [exec, execWrcoil, hc]; rfl
    case wrreg start v r =>
      exact .of_echo hpassed 6 start.toNat 1 fun b => by simp only [exec, execWrreg, State.withF, hc]; rfl
    case wrmcoil start qty bc data =>
      exact .of_echo hpassed 15 start.toNat qty.toNat fun b => by simp only [exec, execWrmcoil, hc]; rfl
    case wrmreg start qty bc data =>
      exact .of_echo hpassed 16 start.toNat (wordsWritten s.map.holdLen start.toNat (wordCount qty)) fun b => by
        simp only [exec, execWrmreg, State.withF, hc]; rfl
    case rptid r =>
      have hid := s.cfg.idString.bound
      refine .of_written hpassed (s.cfg.idString.bytes ++ [s.cfg.idTrailer0, s.cfg.idTrailer1]) 17 0
        (s.cfg.idString.bytes.length + 2) rfl (n := 4 + s.cfg.idString.bytes.length) ?_ (by omega) fun b => rfl
      rw [List.length_append, List.length_cons, List.length_singleton]; omega
    case wrfile dlen reftype fileno recno reclen data =>
      exact .of_echo hpassed 21 (doubled recno) (doubled reclen) fun b => by
        simp only [exec, execWrfile, State.withF, hc]; rfl
    case illegal fc p => cases hc

end Sys2Proof.Machine
end

section
/-! Frames (10_state.md R26): what a request leaves unchanged, first for every instruction at once, then for
each kind of request what its stores leave. -/

namespace Sys2Proof.Machine

variable {s t : State} {i : Instr}

/-- The parts of the state that no request writes. -/
structure KeepsEngine (s t : State) : Prop where
  slaveId : t.slaveId = s.slaveId
  lastCount : t.lastCount = s.lastCount
  deadline : t.deadline = s.deadline
  rxCnt : t.rxCnt = s.rxCnt
  rxq : t.rxq = s.rxq
  now : t.now = s.now
  cfg : t.cfg = s.cfg
  schedule : t.schedule = s.schedule

theorem storeEffect_keepsEngine (i : Instr) (s : State) : KeepsEngine s (storeEffect i s) := by
  cases i <;> constructor <;> rfl

/-- The register map, the store and the free counter are those of `u`. -/
structure StoresAs (u t : State) : Prop where
  map : t.map = u.map
  nv : t.nv = u.nv
  freeIdx : t.freeIdx = u.freeIdx

theorem takeException_keepsEngine (s : State) (c : ExcCode) : KeepsEngine s (s.takeException c) := by
  constructor <;> simp

theorem takeException_stores (s : State) (c : ExcCode) : StoresAs s (s.takeException c) := by
  constructor <;> simp

theorem answerWith_keepsEngine (n : Nat) (bs : List Byte) (fc : Byte) (addr count : Nat) (s : State) :
    KeepsEngine s (s.answerWith n bs fc addr count) := by
  constructor <;> simp [State.answerWith]

theorem answerWith_stores (n : Nat) (bs : List Byte) (fc : Byte) (addr count : Nat) (s : State) :
    StoresAs s (s.answerWith n bs fc addr count) := by
  constructor <;> simp [State.answerWith]

theorem answerWith_outcome (n : Nat) (bs : List Byte) (fc : Byte) (addr count : Nat) (s : State) :
    (s.answerWith n bs fc addr count).outcome = some (.done (n + bs.length + 2)) := by
  simp [State.answerWith]

theorem KeepsEngine.trans {u : State} (h : KeepsEngine s t) (h' : KeepsEngine t u) : KeepsEngine s u where
  slaveId := h'.slaveId.trans h.slaveId
  lastCount := h'.lastCount.trans h.lastCount
  deadline := h'.deadline.trans h.deadline
  rxCnt := h'.rxCnt.trans h.rxCnt
  rxq := h'.rxq.trans h.rxq
  now := h'.now.trans h.now
  cfg := h'.cfg.trans h.cfg
  schedule := h'.schedule.trans h.schedule

/-- A request stores nothing and keeps `cmd`, or it passed its checks and was answered after storing what it stores. -/
theorem exec_stores (h : exec i s = .next t) : KeepsEngine s t ∧
    (t.cmd = s.cmd ∧ StoresAs s t ∨
      failedCheck i s = none ∧ (∃ m, t.outcome = some (.done m)) ∧ StoresAs (storeEffect i s) t) := by
  cases exec_form i s with
  | exception c failed he =>
    obtain rfl : t = s.takeException c := Host.Outcome.next.inj (h.symm.trans (he s.buf))
    exact ⟨takeException_keepsEngine s c, .inl ⟨takeException_cmd s c, takeException_stores s c⟩⟩
  | overflow passed he =>
    obtain rfl : t = s.armWatchdog.dropped .respOverflow := Host.Outcome.next.inj (h.symm.trans (he s.buf))
    exact ⟨by constructor <;> rfl, .inl ⟨rfl, rfl, rfl, rfl⟩⟩
  | answer passed bs fc addr count atMost he =>
    obtain rfl : t = ((storeEffect i s).withF s.buf).answerWith (keptHead i) bs fc addr count :=
      Host.Outcome.next.inj (h.symm.trans (he s.buf))
    have hwithF : KeepsEngine (storeEffect i s) ((storeEffect i s).withF s.buf) := by constructor <;> rfl
    refine ⟨((storeEffect_keepsEngine i s).trans hwithF).trans (answerWith_keepsEngine _ _ _ _ _ _),
      .inr ⟨passed, ⟨_, answerWith_outcome _ _ _ _ _ _⟩, ?_⟩⟩
    obtain ⟨hmap, hnv, hfree⟩ := answerWith_stores (keptHead i) bs fc addr count ((storeEffect i s).withF s.buf)
    exact ⟨hmap, hnv, hfree⟩

/-- Settles O38: what the reading functions, RPTID and ILLEGAL store is nothing but the free counter. -/
theorem readingRequestsStoreNothing : Obligations.ReadingRequestsStoreNothing := by
  unfold Obligations.ReadingRequestsStoreNothing
  rintro s t i ⟨start, qty, bytes, fc, hi⟩ h
  obtain ⟨⟨hid, hcount, hdeadline, hrx, hrxq, hnow, hcfg, hsched⟩, hstores⟩ := exec_stores h
  have heffect : (storeEffect i s).map = s.map ∧ (storeEffect i s).nv = s.nv ∧
      ((∀ start qty bytes, i ≠ .rdhold start qty bytes ∧ i ≠ .rdinp start qty bytes) →
        (storeEffect i s).freeIdx = s.freeIdx) := by
    obtain rfl | rfl | rfl | rfl | rfl | rfl := hi
    · exact ⟨rfl, rfl, fun _ => rfl⟩
    · exact ⟨rfl, rfl, fun _ => rfl⟩
    · exact ⟨rfl, rfl, fun hne => absurd rfl (hne start qty bytes).1⟩
    · exact ⟨rfl, rfl, fun hne => absurd rfl (hne start qty bytes).2⟩
    · exact ⟨rfl, rfl, fun _ => rfl⟩
    · exact ⟨rfl, rfl, fun _ => rfl⟩
  obtain ⟨hemap, henv, hefree⟩ := heffect
  have hkept : t.map = s.map ∧ t.nv = s.nv ∧
      ((∀ start qty bytes, i ≠ .rdhold start qty bytes ∧ i ≠ .rdinp start qty bytes) → t.freeIdx = s.freeIdx) ∧
      (t.cmd = s.cmd ∨ ∃ m, t.outcome = some (.done m)) := by
    obtain ⟨hcmd, hmap, hnv, hfree⟩ | ⟨-, hdone, hmap, hnv, hfree⟩ := hstores
    · exact ⟨hmap, hnv, fun _ => hfree, .inl hcmd⟩
    · exact ⟨hmap.trans hemap, hnv.trans henv, fun hne => hfree.trans (hefree hne), .inr hdone⟩
  obtain ⟨hmap, hnv, hfree, hcmd⟩ := hkept
  exact ⟨hmap, fun a => by rw [hnv], hnv, hid, hcount, hdeadline, hrx, hrxq, hnow, hcfg, hsched, hfree, hcmd⟩

/-- A coil write that passed its checks stores a coil word which differs only in the coils it names. -/
theorem storeEffect_coilWrite {start qty : Word} {b c : Byte} {bytes : List Byte} {n : Nat}
    (hi : i = .wrcoil start b c bytes ∧ n = 1 ∨ i = .wrmcoil start qty b bytes ∧ n = qty.toNat)
    (hc : failedCheck i s = none) :
    ∃ w, storeEffect i s = s.setCo w ∧
      ∀ k, ¬(start.toNat ≤ k ∧ k < start.toNat + n) → w.getLsbD k = s.map.co.getLsbD k := by
  obtain ⟨rfl, rfl⟩ | ⟨rfl, rfl⟩ := hi
  · obtain ⟨-, hstart⟩ := checkCoilWrite_none hc
    exact ⟨_, rfl, fun k hk => by rw [getLsbD_setBit _ (by omega), if_neg (by omega)]⟩
  · obtain ⟨hrange, -⟩ := Option.or_eq_none_iff.1 hc
    obtain ⟨-, -, hend⟩ := checkBitRange_none hrange
    exact ⟨_, rfl, fun k hk => by rw [getLsbD_writeCoils _ hend, if_neg hk]⟩

/-- Settles O39: a coil write stores a coil word alone. -/
theorem coilWritesKeepEverythingElse : Obligations.CoilWritesKeepEverythingElse := by
  unfold Obligations.CoilWritesKeepEverythingElse
  intro s t i start qty b c bytes n hi h
  obtain ⟨⟨hid, hcount, hdeadline, hrx, hrxq, hnow, hcfg, hsched⟩, hstores⟩ := exec_stores h
  obtain ⟨hcmd, hmap, hnv, hfree⟩ | ⟨hc, hdone, hmap, hnv, hfree⟩ := hstores
  · exact ⟨by rw [hmap], fun k _ _ => by rw [hmap], fun a => by rw [hnv], hnv, hid, hcount, hdeadline, hrx, hrxq,
      hnow, hcfg, hfree, hsched, .inl ⟨hcmd, hmap⟩⟩
  · obtain ⟨w, hw, hkept⟩ := storeEffect_coilWrite hi hc
    rw [hw] at hmap hnv hfree
    exact ⟨by rw [hmap, setCo_map], fun k _ hk => by rw [hmap]; exact hkept k hk, fun a => by rw [hnv, setCo_nv], hnv,
      hid, hcount, hdeadline, hrx, hrxq, hnow, hcfg, hfree, hsched, .inr hdone⟩

/-- A register write stores holding registers which differ only in those it names, below the declared count. -/
theorem storeEffect_registerWrite {start qty : Word} {b : Byte} {bytes : List Byte} {n : Nat}
    (hi : i = .wrreg start qty bytes ∧ n = 1 ∨
      i = .wrmreg start qty b bytes ∧ n = (if qty.toNat % 256 < 128 then qty.toNat % 256 else 0)) :
    ∃ ws, storeEffect i s = s.setHr ws ∧ ws.length = s.map.hr.length ∧
      ∀ j : Nat, ¬(start.toNat ≤ j ∧ j < start.toNat + n ∧ j < s.map.holdLen) → ws[j]? = s.map.hr[j]? := by
  obtain ⟨rfl, rfl⟩ | ⟨rfl, rfl⟩ := hi
  · exact ⟨_, rfl, length_writeRegister _ _ _ _, fun j hj => by rw [getElem?_writeRegister, if_neg (by omega)]⟩
  · rw [← wordCount_eq]
    exact ⟨_, rfl, length_writeWords _ _ _ _ _, fun j hj => by rw [getElem?_writeWords, if_neg (by omega)]⟩

/-- Settles O40: a register write stores holding registers alone. -/
theorem registerWritesKeepEverythingElse : Obligations.RegisterWritesKeepEverythingElse := by
  unfold Obligations.RegisterWritesKeepEverythingElse
  intro s t i start qty b bytes n hi h
  obtain ⟨⟨hid, hcount, hdeadline, hrx, hrxq, hnow, hcfg, hsched⟩, hstores⟩ := exec_stores h
  obtain ⟨hcmd, hmap, hnv, hfree⟩ | ⟨-, hdone, hmap, hnv, hfree⟩ := hstores
  · exact ⟨by rw [hmap], by rw [hmap], fun j _ => by rw [hmap], fun a => by rw [hnv], hnv, hid, hcount, hdeadline, hrx,
      hrxq, hnow, hcfg, hfree, hsched, .inl ⟨hcmd, hmap⟩⟩
  · obtain ⟨ws, hws, hlen, hkept⟩ := storeEffect_registerWrite (s := s) hi
    rw [hws] at hmap hnv hfree
    exact ⟨by rw [hmap, setHr_map], by rw [hmap]; exact hlen, fun j hj => by rw [hmap]; exact hkept j hj,
      fun a => by rw [hnv, setHr_nv], hnv, hid, hcount, hdeadline, hrx, hrxq, hnow, hcfg, hfree, hsched, .inr hdone⟩

/-- Settles O41: WRFILE stores a run of at most `2 * reclen` bytes from `2 * recno` on. -/
theorem fileRecordWriteKeepsEverythingElse : Obligations.FileRecordWriteKeepsEverythingElse := by
  unfold Obligations.FileRecordWriteKeepsEverythingElse
  intro s t dlen reftype fileno recno reclen data h
  obtain ⟨⟨hid, hcount, hdeadline, hrx, hrxq, hnow, hcfg, hsched⟩, hstores⟩ := exec_stores h
  obtain ⟨hcmd, hmap, hnv, hfree⟩ | ⟨-, hdone, hmap, hnv, hfree⟩ := hstores
  · exact ⟨fun ba a _ _ => by rw [hnv], hmap, hid, hcount, hdeadline, hrx, hrxq, hnow, hcfg, hfree, hsched,
      .inl ⟨hcmd, hnv⟩⟩
  · have hlen : (data.take (doubled reclen)).length ≤ doubled reclen := List.length_take_le _ _
    refine ⟨?_, hmap, hid, hcount, hdeadline, hrx, hrxq, hnow, hcfg, hfree, hsched, .inr hdone⟩
    rintro ba a rfl ha
    rw [hnv, storeEffect, setNv_nv, Memory.read_writeBytes, if_neg (by omega)]

end Sys2Proof.Machine
end

section
/-! Stale frame bytes (10_state.md R44): each stage of a Poll reads of `F` only what the Poll wrote there, so two states
that differ in `F` stay two states that differ in `F`. -/

namespace Sys2Proof.Machine

/-- Two results that are states which differ only in the 140 bytes of `F`. -/
def SameButF (o o' : Host.Outcome State Fault Refusal) : Prop :=
  ∃ t b, o = .next t ∧ b.length = maxFrame ∧ o' = .next (t.withF b)

variable {s : State} {b : List Byte}

/-- Lists that agree on their first `m` elements agree on their first `n`, for `n` at most `m`. -/
theorem take_eq_of_le {f g : List Byte} {m n : Nat} (hn : n ≤ m) (h : f.take m = g.take m) : f.take n = g.take n := by
  rw [← Nat.min_eq_left hn, ← List.take_take, h, List.take_take]

/-! ## Answers and exceptions -/

theorem answerWith_answered {n : Nat} {bs : List Byte} (hb : s.buf.length = maxFrame) (hm : n + bs.length ≤ 138)
    (fc : Byte) (addr count : Nat) :
    s.Answers (s.buf.take n ++ bs) ⟨fc, BitVec.ofNat 32 addr, BitVec.ofNat 32 count⟩
      (s.answerWith n bs fc addr count) := by
  have hn : n ≤ s.buf.length := by rw [hb, maxFrame_eq]; omega
  have hl : (s.buf.take n ++ bs).length = n + bs.length := by
    rw [List.length_append, List.length_take_of_le hn]
  have hlen : (overwrite s.buf n bs).length = maxFrame := by
    rw [length_overwrite (by rw [hb, maxFrame_eq]; omega), hb]
  exact respond_body (t := ((s.armWatchdog.writeF n bs).setFrameLen (n + bs.length)).setCmd fc addr count) hlen hl.symm
    (by omega) (take_overwrite hn)

/-- An answer depends on `F` only through the leading bytes it keeps. -/
theorem answerWith_sameButF (hs : s.buf.length = maxFrame) (hb : b.length = maxFrame) {n : Nat} {bs : List Byte}
    (hm : n + bs.length ≤ 138) (hf : b.take n = s.buf.take n) (fc : Byte) (addr count : Nat) :
    SameButF (.next (s.answerWith n bs fc addr count)) (.next ((s.withF b).answerWith n bs fc addr count)) := by
  obtain ⟨b₁, -, -, h₁⟩ := answerWith_answered hs hm fc addr count
  obtain ⟨b₂, hlen, -, h₂⟩ := answerWith_answered (s := s.withF b) hb hm fc addr count
  refine ⟨_, b₂, rfl, hlen, ?_⟩
  rw [h₁, h₂, show (s.withF b).buf.take n = s.buf.take n from hf]
  rfl

/-- An exception depends on `F` only through the address and the function byte. -/
theorem takeException_sameButF (hs : s.buf.length = maxFrame) (hb : b.length = maxFrame)
    (hf : b.take 2 = s.buf.take 2) (c : ExcCode) :
    SameButF (.next (s.takeException c)) (.next ((s.withF b).takeException c)) := by
  obtain ⟨b₁, -, h₁⟩ := takeException_excepts hs c
  obtain ⟨b₂, hlen, h₂⟩ := takeException_excepts (s := s.withF b) hb c
  have h0 : byteAt (s.withF b).buf 0 = byteAt s.buf 0 := byteAt_of_take_eq hf (by omega)
  have h1 : byteAt (s.withF b).buf 1 = byteAt s.buf 1 := byteAt_of_take_eq hf (by omega)
  refine ⟨_, b₂, rfl, hlen, ?_⟩
  rw [h₁, h₂, State.excepted, h0, h1]
  rfl

/-! ## Requests -/

theorem storeEffect_buf (i : Instr) (s : State) : (storeEffect i s).buf = s.buf := by
  cases i <;> rfl

theorem two_le_keptHead (i : Instr) : 2 ≤ keptHead i := by
  cases i <;> simp only [keptHead] <;> omega

/-- A request reads of `F` only the leading bytes that its response keeps. -/
theorem exec_sameButF (i : Instr) (hs : s.buf.length = maxFrame) (hb : b.length = maxFrame)
    (hf : b.take (keptHead i) = s.buf.take (keptHead i)) : SameButF (exec i s) (exec i (s.withF b)) := by
  cases exec_form i s with
  | exception c failed h =>
    rw [h b, ← withF_buf s, h s.buf]
    exact takeException_sameButF hs hb (take_eq_of_le (two_le_keptHead i) hf) c
  | overflow passed h =>
    exact ⟨_, b, h s.buf, hb, h b⟩
  | answer passed bs fc addr count atMost h =>
    rw [h b, ← withF_buf s, h s.buf]
    exact answerWith_sameButF (s := (storeEffect i s).withF s.buf) hs hb atMost hf fc addr count

theorem requestLength_of_decodePayload {fc : Byte} {p : List Byte} {i : Instr} (h : decodePayload fc p = .instr i) :
    i.requestLength = p.length + 4 := by
  unfold decodePayload at h
  split at h
  pick_goal -1
  · split at h <;> cases h
    exact Nat.add_comm 4 _
  all_goals
    cases h
    simp [Instr.requestLength]
    omega

theorem keptHead_le_requestLength (i : Instr) : keptHead i ≤ i.requestLength := by
  cases i <;> simp only [keptHead, Instr.requestLength] <;> omega

/-- A frame holds all the bytes that the response to its request keeps (R135). -/
theorem keptHead_le_of_decode {f : List Byte} {i : Instr} (h : decode f = .instr i) : keptHead i ≤ f.length := by
  obtain ⟨-, hd⟩ | ⟨-, -, hd⟩ | ⟨-, -, a, fc, p, -, -, -, hlen, hd⟩ := decode_cases f
  · rw [hd] at h; cases h
  · rw [hd] at h; cases h
  · rw [hlen, ← requestLength_of_decodePayload (hd.symm.trans h)]
    exact keptHead_le_requestLength i

/-! ## The Poll -/

theorem four_le_of_shortForFunction {f : List Byte} {fc : Byte} (h : decode f = .rejected (.shortForFunction fc)) :
    4 ≤ f.length := by
  obtain ⟨-, hd⟩ | ⟨h4, -⟩ | ⟨h4, -⟩ := decode_cases f
  · rw [hd] at h; cases h
  · exact h4
  · exact h4

/-- Stages 2 to 5 read of `F` only the captured frame. -/
theorem serve_sameButF (hs : s.buf.length = maxFrame) (hb : b.length = maxFrame)
    (hf : b.take s.frameLen = s.buf.take s.frameLen) : SameButF (serve s) (serve (s.withF b)) := by
  have hframe : (s.withF b).frame = s.frame := hf
  have hid : (s.withF b).slaveId = s.slaveId := rfl
  have hhead : ∀ n, n ≤ s.frame.length → b.take n = s.buf.take n :=
    fun n hn => take_eq_of_le (hn.trans (List.length_take_le _ _)) hf
  unfold serve
  rw [hframe, hid]
  by_cases ha : byteAt s.frame 0 ≠ s.slaveId
  · rw [if_pos ha, if_pos ha]
    exact ⟨_, b, rfl, hb, rfl⟩
  · rw [if_neg ha, if_neg ha]
    cases hd : decode s.frame with
    | instr i => exact exec_sameButF i hs hb (hhead _ (keptHead_le_of_decode hd))
    | rejected e =>
      cases e with
      | shortFrame => exact ⟨_, b, rfl, hb, rfl⟩
      | badChecksum => exact ⟨_, b, rfl, hb, rfl⟩
      | shortForFunction fc =>
        have h4 : 4 ≤ s.frame.length := four_le_of_shortForFunction hd
        exact takeException_sameButF hs hb (hhead 2 (by omega)) .illegalDataValue

/-- The captured frame covers what `F` held before. -/
theorem take_drain_buf {late : List Byte} (hfits : (s.rxq ++ late).length ≤ maxFrame) :
    (s.drain late).buf.take (s.rxq ++ late).length = s.rxq ++ late := by
  rw [drain_buf, List.take_of_length_le hfits]
  simpa using take_overwrite (f := s.buf) (bs := s.rxq ++ late) (Nat.zero_le _)

/-- Stage 1 reads nothing of `F`. -/
theorem poll_sameButF (late : List Byte) (hs : s.buf.length = maxFrame) (hb : b.length = maxFrame) :
    SameButF (poll late s) (poll late (s.withF b)) := by
  have hrxq : (s.withF b).rxq = s.rxq := rfl
  have hcount : (s.withF b).lastCount = s.lastCount := rfl
  have hnow : (s.withF b).now = s.now := rfl
  have hdeadline : (s.withF b).deadline = s.deadline := rfl
  unfold poll assemble
  simp only [hrxq, hcount, hnow, hdeadline]
  have hdb : ((s.withF b).drain late).buf.length = maxFrame := drain_bufLength late hb
  by_cases h0 : s.rxq.length = 0
  · simp only [if_pos h0]
    exact ⟨_, b, rfl, hb, rfl⟩
  by_cases h1 : s.rxq.length ≠ s.lastCount
  · simp only [if_neg h0, if_pos h1]
    exact ⟨_, b, rfl, hb, rfl⟩
  by_cases h2 : s.now < s.deadline
  · simp only [if_neg h0, if_neg h1, if_pos h2]
    exact ⟨_, b, rfl, hb, rfl⟩
  by_cases h3 : maxFrame < (s.rxq ++ late).length
  · simp only [if_neg h0, if_neg h1, if_neg h2, if_pos h3]
    exact ⟨_, _, rfl, hdb, rfl⟩
  · simp only [if_neg h0, if_neg h1, if_neg h2, if_neg h3]
    have hfits : (s.rxq ++ late).length ≤ maxFrame := Nat.le_of_not_lt h3
    have hf : ((s.withF b).drain late).buf.take (s.rxq ++ late).length =
        (s.drain late).buf.take (s.rxq ++ late).length :=
      (take_drain_buf (s := s.withF b) hfits).trans (take_drain_buf hfits).symm
    exact serve_sameButF (s := (s.drain late).setFrameLen (s.rxq ++ late).length) (drain_bufLength late hs) hdb hf

/-- The inputs of a Poll leave `F` alone, or a power-up before it replaces all 140 bytes. -/
theorem polled_withF (s : State) (hb : b.length = maxFrame) :
    ∃ b', b'.length = maxFrame ∧ (s.withF b).polled = s.polled.withF b' := by
  cases hsched : s.schedule with
  | nil => exact ⟨b, hb, by rw [polled_nil hsched, polled_nil (s := s.withF b) hsched]⟩
  | cons p rest =>
    rw [polled_cons hsched, polled_cons (s := s.withF b) hsched]
    cases hp : p.powerUp with
    | true =>
      exact ⟨Config.frameBytes s.freeIdx, length_frameBytes _, by
        simp only [State.applyInput, hp, if_true, State.withF, State.powerUp]⟩
    | false => exact ⟨b, hb, by simp only [State.applyInput, hp, State.withF, Bool.false_eq_true, if_false]⟩

theorem lateBytes_withF (s : State) (b : List Byte) : (s.withF b).lateBytes = s.lateBytes := by
  cases hsched : s.schedule <;> simp [State.lateBytes, State.beginPoll, State.withF, hsched]

/-- Settles O53: the inputs of the Poll read nothing of `F`, and so does each stage. -/
theorem staleFrameBytesNeverMatter : Obligations.StaleFrameBytesNeverMatter := by
  unfold Obligations.StaleFrameBytesNeverMatter
  intro s t b hs hb hstep
  obtain ⟨b', hb', hpolled⟩ := polled_withF s hb
  have hc : s.Configured := configured_of_step hstep
  have hc' : (s.withF b).Configured := by rw [State.Configured, hpolled]; exact hc
  obtain ⟨u, b'', hu, hlen, hu'⟩ := poll_sameButF s.lateBytes (polled_bufLength hs) hb'
  obtain rfl : u = t := Host.Outcome.next.inj (hu.symm.trans ((step_configured hc).symm.trans hstep))
  refine ⟨b'', hlen, ?_⟩
  calc step (s.withF b) = poll (s.withF b).lateBytes (s.withF b).polled := step_configured hc'
    _ = poll s.lateBytes (s.polled.withF b') := by rw [lateBytes_withF, hpolled]
    _ = .next (u.withF b'') := hu'

end Sys2Proof.Machine
end

section
/-! Writing the same thing twice (20_memory.md R67): each operation that writes coils, registers or store bytes leaves
after a second run what it left after the first. -/

namespace Sys2Proof.Machine

theorem setBit_setBit (w : Word) {k : Nat} (hk : k < 16) (b : Bool) : setBit (setBit w k b) k b = setBit w k b := by
  refine BitVec.eq_of_getLsbD_eq fun j _ => ?_
  rw [getLsbD_setBit _ hk, getLsbD_setBit _ hk]
  split <;> rfl

theorem writeCoils_writeCoils (co : Word) {start qty : Nat} (h : start + qty ≤ 16) (data : List Byte) :
    writeCoils (writeCoils co start qty data) start qty data = writeCoils co start qty data := by
  refine BitVec.eq_of_getLsbD_eq fun j _ => ?_
  rw [getLsbD_writeCoils _ h, getLsbD_writeCoils _ h]
  split <;> rfl

theorem writeRegister_writeRegister (arr : List Word) (len i : Nat) (v : Word) :
    writeRegister (writeRegister arr len i v) len i v = writeRegister arr len i v := by
  refine List.ext_getElem? fun j => ?_
  rw [getElem?_writeRegister, length_writeRegister, getElem?_writeRegister]
  split <;> rfl

theorem writeWords_writeWords (arr : List Word) (len start nw : Nat) (data : List Byte) :
    writeWords (writeWords arr len start nw data) len start nw data = writeWords arr len start nw data := by
  refine List.ext_getElem? fun j => ?_
  rw [getElem?_writeWords, length_writeWords, getElem?_writeWords]
  split <;> rfl

theorem Memory.read_writeBytes_writeBytes (m : Memory) (a : Nat) (bs : List Byte) (x : Nat) :
    ((m.writeBytes a bs).writeBytes a bs).read x = (m.writeBytes a bs).read x := by
  rw [Memory.read_writeBytes, Memory.read_writeBytes]
  split <;> rfl

variable {s t : State} {i : Instr}

/-- Storing again, from what the first run stored, changes nothing that can be read. -/
theorem storeEffect_replayed (hc : failedCheck i s = none) (hmap : t.map = (storeEffect i s).map)
    (hnv : t.nv = (storeEffect i s).nv) :
    (storeEffect i t).map = t.map ∧ ∀ a, (storeEffect i t).nv.read a = t.nv.read a := by
  cases i with
  | wrcoil start onoff ig r =>
    obtain ⟨-, hstart⟩ := checkCoilWrite_none hc
    refine ⟨?_, fun _ => rfl⟩
    simp only [storeEffect, setCo_map] at hmap ⊢
    rw [hmap, setBit_setBit _ (by omega)]
  | wrmcoil start qty bc data =>
    obtain ⟨hrange, -⟩ := Option.or_eq_none_iff.1 hc
    obtain ⟨-, -, hend⟩ := checkBitRange_none hrange
    refine ⟨?_, fun _ => rfl⟩
    simp only [storeEffect, setCo_map] at hmap ⊢
    rw [hmap, writeCoils_writeCoils _ hend]
  | wrreg start v r =>
    refine ⟨?_, fun _ => rfl⟩
    simp only [storeEffect, setHr_map] at hmap ⊢
    rw [hmap, writeRegister_writeRegister]
  | wrmreg start qty bc data =>
    refine ⟨?_, fun _ => rfl⟩
    simp only [storeEffect, setHr_map] at hmap ⊢
    rw [hmap, writeWords_writeWords]
  | wrfile dlen reftype fileno recno reclen data =>
    refine ⟨rfl, fun a => ?_⟩
    simp only [storeEffect, setNv_nv] at hnv ⊢
    rw [hnv, Memory.read_writeBytes_writeBytes]
  | _ => exact ⟨rfl, fun _ => rfl⟩

end Sys2Proof.Machine
end

section
/-! Write requests as a whole (43_bit_functions.md to 45_slave_id_and_file_record.md): a write request that passes its
checks stores and echoes, and its command record depends on nothing but the request and the declared count. -/

namespace Sys2Proof.Machine

variable {s t : State} {i : Instr}

/-- A write request that passes its checks stores and answers by an echo; the address and the count it records are the
same from every state with that declared count (R163, R164, R185, R187, R206). -/
theorem exec_write (hw : i.functionCode.toNat ∈ [5, 6, 15, 16, 21]) (len : Nat) :
    ∃ addr count, ∀ s : State, s.map.holdLen = len → failedCheck i s = none →
      exec i s = .next ((storeEffect i s).answerWith (keptHead i) [] i.functionCode addr count) := by
  cases i with
  | wrcoil start onoff ig r =>
    refine ⟨start.toNat, 1, fun s _ hc => ?_⟩
    simp only [failedCheck] at hc
    simp only [exec, execWrcoil, hc, answerWith_nil]; rfl
  | wrreg start v r =>
    refine ⟨start.toNat, 1, fun s _ hc => ?_⟩
    simp only [failedCheck] at hc
    simp only [exec, execWrreg, hc, answerWith_nil]; rfl
  | wrmcoil start qty bc data =>
    refine ⟨start.toNat, qty.toNat, fun s _ hc => ?_⟩
    simp only [failedCheck] at hc
    simp only [exec, execWrmcoil, hc, answerWith_nil]; rfl
  | wrmreg start qty bc data =>
    refine ⟨start.toNat, wordsWritten len start.toNat (wordCount qty), fun s hlen hc => ?_⟩
    simp only [failedCheck] at hc
    simp only [exec, execWrmreg, hc, answerWith_nil, ← hlen]; rfl
  | wrfile dlen reftype fileno recno reclen data =>
    refine ⟨doubled recno, doubled reclen, fun s _ hc => ?_⟩
    simp only [failedCheck] at hc
    simp only [exec, execWrfile, hc, answerWith_nil]; rfl
  | illegal fc p => exact ⟨0, 0, fun s _ hc => absurd hc (by simp [failedCheck])⟩
  | _ => simp [Instr.functionCode] at hw

/-- What a write request that passes its checks sends is the head of the request, and the record it leaves in `cmd` is
the same from every state with that declared count. -/
theorem exec_write_answers (hw : i.functionCode.toNat ∈ [5, 6, 15, 16, 21]) (len : Nat) :
    ∃ cmd, ∀ s : State, s.map.holdLen = len → failedCheck i s = none → s.buf.length = maxFrame →
      ∃ t, exec i s = .next t ∧ (storeEffect i s).Answers (s.buf.take (keptHead i)) cmd t := by
  obtain ⟨addr, count, h⟩ := exec_write hw len
  refine ⟨⟨i.functionCode, BitVec.ofNat 32 addr, BitVec.ofNat 32 count⟩,
    fun s hlen hc hb => ⟨_, h s hlen hc, ?_⟩⟩
  rw [← storeEffect_buf i s] at hb ⊢
  simpa using answerWith_answered hb (n := keptHead i) (bs := []) (keptHead_le i) i.functionCode addr count

/-- A request that ends with Done passed its checks. -/
theorem failedCheck_of_done {m : Nat} (h : exec i s = .next t) (hdone : t.outcome = some (.done m)) :
    failedCheck i s = none := by
  cases hc : failedCheck i s with
  | none => rfl
  | some c =>
    obtain rfl : t = s.takeException c := Host.Outcome.next.inj (h.symm.trans (exec_of_failedCheck hc))
    simp at hdone

/-- The checks look at the declared counts and the parameters of the device alone. -/
theorem failedCheck_congr (i : Instr) (hhold : t.map.holdLen = s.map.holdLen) (hin : t.map.inLen = s.map.inLen)
    (hcfg : t.cfg = s.cfg) : failedCheck i t = failedCheck i s := by
  cases i <;> simp only [failedCheck, hhold, hin, hcfg]

/-! ## The store after a WRFILE -/

/-- What the store answers after a WRFILE that passed its checks (R58, R206). -/
theorem exec_wrfile_nvstoreRead {dlen reftype : Byte} {fileno recno reclen : Word} {data : List Byte}
    (hc : failedCheck (.wrfile dlen reftype fileno recno reclen data) s = none) :
    ∃ t, exec (.wrfile dlen reftype fileno recno reclen data) s = .next t ∧ ∀ a, t.nv.nvstoreRead a =
      if doubled recno ≤ a ∧ a < doubled recno + doubled reclen then byteAt data (a - doubled recno)
      else s.nv.nvstoreRead a := by
  obtain ⟨-, hpresent⟩ := Option.or_eq_none_iff.1 hc
  have hlen : (data.take (doubled reclen)).length = doubled reclen :=
    List.length_take_of_le (checkDataLength_none hpresent)
  obtain ⟨addr, count, h⟩ :=
    exec_write (i := .wrfile dlen reftype fileno recno reclen data) (by simp [Instr.functionCode]) s.map.holdLen
  refine ⟨_, h s rfl hc, fun a => ?_⟩
  rw [(answerWith_stores _ _ _ _ _ _).nv, storeEffect, setNv_nv, Memory.nvstoreRead_writeBytes, hlen]
  split
  case isTrue ha => exact byteAt_of_take_eq (n := doubled reclen) (by rw [List.take_take, Nat.min_self]) (by omega)
  case isFalse => rfl

/-- Settles O59: the laws of the store, and WRFILE as one run of writes. -/
theorem storeReadAnswersTheByteWritten : Obligations.StoreReadAnswersTheByteWritten := by
  unfold Obligations.StoreReadAnswersTheByteWritten
  refine ⟨fun m a v => ⟨Memory.nvstoreRead_write_same m a v, fun b hb => Memory.nvstoreRead_write_other m v hb,
    Memory.nvstoreRead_unlisted⟩, fun s dlen recno reclen data hrange hdata => ?_⟩
  have hfile : checkFileRange s.cfg.nvCapacity 6 1 recno reclen = none := by
    rw [checkFileRange_eq, if_neg (by simp), if_neg (by simp), if_neg (by omega)]
  have hlen : checkDataLength data.length (doubled reclen) = none := by
    rw [checkDataLength_doubled, if_neg (by omega)]
  exact exec_wrfile_nvstoreRead (Option.or_eq_none_iff.2 ⟨hfile, hlen⟩)

end Sys2Proof.Machine
end

section
/-! Replay (20_memory.md R67): a valid write request, drained a second time from the state that it left. -/

namespace Sys2Proof.Machine

variable {s t v : State} {i : Instr} {f : List Byte}

/-! ## A placed frame -/

theorem placeFrame_drains (hc : s.misconfigured = none) (hne : f ≠ []) : (s.placeFrame f).Drains :=
  ⟨hc, hne, rfl, BitVec.le_refl s.now⟩

theorem placeFrame_taken (s : State) (f : List Byte) : (s.placeFrame f).taken = f := List.append_nil f

/-- The Poll after a request of this device was placed runs it (R105, R108, R111). -/
theorem step_placeFrame (hc : s.misconfigured = none) (hl : f.length ≤ maxFrame) (ha : byteAt f 0 = s.slaveId)
    (hd : decode f = .instr i) : step (s.placeFrame f) = exec i (s.placeFrame f).capture := by
  have hne : f ≠ [] := List.ne_nil_of_length_pos
    (Nat.lt_of_lt_of_le (by omega) ((two_le_keptHead i).trans (keptHead_le_of_decode hd)))
  have hfits : (s.placeFrame f).taken.length ≤ maxFrame := by rwa [placeFrame_taken]
  have hid : byteAt f 0 = (s.placeFrame f).slaveId := ha
  rw [step_captured (placeFrame_drains hc hne) hfits, serve, capture_frame hfits, placeFrame_taken, capture_slaveId,
    if_neg (not_not_intro hid), hd]

/-! ## The state that a request leaves -/

theorem storeEffect_tx (i : Instr) (s : State) : (storeEffect i s).tx = s.tx := by
  cases i <;> rfl

/-- Writes in bounds keep what R11 and R273 speak of. -/
theorem misconfigured_of_inBounds (hid : t.slaveId = s.slaveId) (h : WritesInBounds s t) :
    t.misconfigured = s.misconfigured := by
  have hin : t.map.inLen = s.map.inLen := by rw [h.map]
  have hhold : t.map.holdLen = s.map.holdLen := by rw [h.map]
  have hir : t.map.ir = s.map.ir := by rw [h.map]
  simp only [State.misconfigured, hid, hin, hhold, hir, h.hrLength]

theorem ends_of_exec (hb : s.buf.length = maxFrame) (h : exec i s = .next t) : Ends s t := by
  obtain ⟨t', h', hends⟩ := exec_ends hb i
  obtain rfl : t' = t := Host.Outcome.next.inj (h'.symm.trans h)
  exact hends

/-- A write request completed from `s`, run again from `v`: a state with the register map and the store that the first
run left, and with the same head of the request in `F`. -/
theorem exec_write_replayed {m : Nat} (hw : i.functionCode.toNat ∈ [5, 6, 15, 16, 21])
    (hs : s.buf.length = maxFrame) (hv : v.buf.length = maxFrame)
    (h : exec i s = .next t) (hdone : t.outcome = some (.done m))
    (hhead : v.buf.take (keptHead i) = s.buf.take (keptHead i))
    (hmap : v.map = t.map) (hnv : v.nv = t.nv) (hcfg : v.cfg = t.cfg) :
    ∃ u r, exec i v = .next u ∧ u.outcome = some (.done m) ∧ t.tx = s.tx ++ [r] ∧ u.tx = v.tx ++ [r] ∧
      u.map = t.map ∧ u.cmd = t.cmd ∧ ∀ a, u.nv.read a = t.nv.read a := by
  have hends := ends_of_exec hs h
  have hhold : v.map.holdLen = s.map.holdLen := by rw [hmap, hends.inBounds.map]
  have hin : v.map.inLen = s.map.inLen := by rw [hmap, hends.inBounds.map]
  have hpassed : failedCheck i s = none := failedCheck_of_done h hdone
  have hpassed' : failedCheck i v = none :=
    (failedCheck_congr i hhold hin (hcfg.trans (hends.closes hs).cfg)).trans hpassed
  obtain ⟨cmd, hanswers⟩ := exec_write_answers hw s.map.holdLen
  obtain ⟨t', ht, b, -, -, rfl⟩ := hanswers s rfl hpassed hs
  obtain rfl := Host.Outcome.next.inj (h.symm.trans ht)
  obtain ⟨u, hu, b', -, -, rfl⟩ := hanswers v hhold hpassed' hv
  obtain ⟨hreplayMap, hreplayNv⟩ := storeEffect_replayed hpassed hmap hnv
  rw [hhead] at hu
  refine ⟨_, withChecksum (s.buf.take (keptHead i)), hu, hdone, ?_, ?_, hreplayMap.trans hmap, rfl, fun a => ?_⟩
  · exact congrArg (· ++ _) (storeEffect_tx i s)
  · exact congrArg (· ++ _) (storeEffect_tx i v)
  · exact (hreplayNv a).trans (by rw [hnv])

/-- Settles O56: both Polls run the request on the same captured frame, the second from the map and the store that the
first left. -/
theorem replayedWriteRequestsAreIdempotent : Obligations.ReplayedWriteRequestsAreIdempotent := by
  unfold Obligations.ReplayedWriteRequestsAreIdempotent
  intro s t f i m hb hc hl ha hd hw hstep hdone
  have hfits : ∀ w : State, (w.placeFrame f).taken.length ≤ maxFrame := fun w => by rwa [placeFrame_taken]
  have hhead : ∀ w : State, (w.placeFrame f).capture.buf.take (keptHead i) = f.take (keptHead i) := fun w => by
    rw [take_capture (hfits w) (by rw [placeFrame_taken]; exact keptHead_le_of_decode hd), placeFrame_taken]
  have hcap : (s.placeFrame f).capture.buf.length = maxFrame := capture_bufLength (s := s.placeFrame f) hb (hfits s)
  have hexec : exec i (s.placeFrame f).capture = .next t := (step_placeFrame hc hl ha hd).symm.trans hstep
  have hends := ends_of_exec hcap hexec
  have hclosed := hends.closes hcap
  have hc' : t.misconfigured = none := (misconfigured_of_inBounds hclosed.slaveId hends.inBounds).trans hc
  have hcap' : (t.placeFrame f).capture.buf.length = maxFrame :=
    capture_bufLength (s := t.placeFrame f) hclosed.bufLength (hfits t)
  obtain ⟨u, r, hu, hreplay⟩ :=
    exec_write_replayed hw hcap hcap' hexec hdone ((hhead t).trans (hhead s).symm) rfl rfl rfl
  exact ⟨u, r, (step_placeFrame hc' hl (ha.trans hclosed.slaveId.symm) hd).trans hu, hreplay⟩

end Sys2Proof.Machine
end

section
/-! The decoder against the encoder (30_encoding.md R70, R73 to R77, R82 to R84): a payload and the request read from
it determine each other, and a payload of the fixed minimum length is a request. -/

namespace Sys2Proof

open Machine

variable {fc : Byte} {p f : List Byte} {i : Instr}

/-- The payload of a request, read under its own function byte, is that request. -/
theorem decodePayload_payload (h : i.illegalIsIllegal = true) :
    decodePayload i.functionCode i.payload = .instr i := by
  cases i with
  | illegal fc p => exact decodePayload_illegal (fc := fc) (by simpa [Instr.illegalIsIllegal] using h) p
  | _ => simp [Instr.functionCode, Instr.payload, decodePayload]

/-- What a payload decodes to has that function byte and that payload. -/
theorem decodePayload_eq_instr (h : decodePayload fc p = .instr i) :
    i.functionCode = fc ∧ i.payload = p ∧ i.illegalIsIllegal = true := by
  unfold decodePayload at h
  split at h
  pick_goal -1
  · split at h
    case isTrue => cases h
    case isFalse hfc =>
      cases h
      exact ⟨rfl, rfl, by simpa [Instr.illegalIsIllegal] using hfc⟩
  all_goals
    rename_i hfc
    cases h
    exact ⟨BitVec.eq_of_toNat_eq hfc.symm, by simp [Instr.payload], rfl⟩

/-- Decoding answers a request only for a body with its right checksum, and that body holds the request. -/
theorem decode_eq_instr (h : decode f = .instr i) :
    f = encode (byteAt f 0) i ∧ i.illegalIsIllegal = true ∧ i.requestLength = f.length := by
  obtain ⟨-, hd⟩ | ⟨-, -, hd⟩ | ⟨-, -, a, fc, p, hf, ha, -, hlen, hd⟩ := decode_cases f
  · rw [hd] at h; cases h
  · rw [hd] at h; cases h
  · have hp : decodePayload fc p = .instr i := hd.symm.trans h
    obtain ⟨hfc, hpayload, hillegal⟩ := decodePayload_eq_instr hp
    refine ⟨?_, hillegal, (requestLength_of_decodePayload hp).trans hlen.symm⟩
    rw [ha, encode, hfc, hpayload]
    exact hf

/-- A frame that fits the RawFrame decodes to nothing but well-formed requests. -/
theorem wellFormed_of_decode (h : decode f = .instr i) (hl : f.length ≤ maxFrame) : i.wellFormed = true := by
  obtain ⟨-, hillegal, hlen⟩ := decode_eq_instr h
  simp [Instr.wellFormed, Instr.fits, hillegal, hlen, hl]

/-- Settles O1: the checksum appended verifies, so decoding comes down to the payload. -/
theorem decodeOfEncodeReturnsTheRequest : Obligations.DecodeOfEncodeReturnsTheRequest := by
  unfold Obligations.DecodeOfEncodeReturnsTheRequest
  intro id i hwf
  obtain ⟨-, hillegal⟩ := Bool.and_eq_true_iff.1 hwf
  rw [encode, decode_withChecksum, decodePayload_payload hillegal]

/-- Settles O2: a decoded frame is its body with the checksum appended, and the body holds the request. -/
theorem encodeOfDecodeReturnsTheFrame : Obligations.EncodeOfDecodeReturnsTheFrame := by
  unfold Obligations.EncodeOfDecodeReturnsTheFrame
  intro f i h
  obtain ⟨hf, -⟩ := decode_eq_instr h
  exact ⟨hf.symm, wellFormed_of_decode h⟩

/-- The supported function bytes by the fixed minimum of their requests (R82, R83). -/
theorem minLength_of_supported (h : functionCodes.contains fc = true) :
    fc ∈ [1, 2, 3, 4, 5, 6] ∧ minLength fc = 8 ∨ fc ∈ [15, 16] ∧ minLength fc = 9 ∨ fc = 17 ∨
      fc = 21 ∧ minLength fc = 12 := by
  revert fc; decide

theorem exists_decodePayload (h : minLength fc ≤ p.length + 4) : ∃ i, decodePayload fc p = .instr i := by
  cases hc : functionCodes.contains fc with
  | false => exact ⟨_, decodePayload_illegal hc p⟩
  | true =>
    obtain ⟨hfc, hmin⟩ | ⟨hfc, hmin⟩ | rfl | ⟨rfl, hmin⟩ := minLength_of_supported hc
    · have hp : 4 ≤ p.length := by omega
      match p, hp with
      | a :: b :: c :: d :: r, _ =>
        simp only [List.mem_cons, List.not_mem_nil, or_false] at hfc
        obtain rfl | rfl | rfl | rfl | rfl | rfl := hfc <;> exact ⟨_, rfl⟩
    · have hp : 5 ≤ p.length := by omega
      match p, hp with
      | a :: b :: c :: d :: e :: r, _ =>
        simp only [List.mem_cons, List.not_mem_nil, or_false] at hfc
        obtain rfl | rfl := hfc <;> exact ⟨_, rfl⟩
    · exact ⟨.rptid p, by simp [decodePayload]⟩
    · have hp : 8 ≤ p.length := by omega
      match p, hp with
      | l :: t :: a :: b :: c :: d :: e :: g :: r, _ => exact ⟨_, rfl⟩

end Sys2Proof
end

section
/-! ILLEGAL (30_encoding.md R84): an unsupported function byte, from the frame to exception 1. -/

namespace Sys2Proof.Machine

/-- Settles O29: ILLEGAL is taking exception 1. -/
theorem illegalFunctionTakesException1 : Obligations.IllegalFunctionTakesException1 := by
  unfold Obligations.IllegalFunctionTakesException1
  intro s fc payload hb
  exact ⟨s.takeException .illegalFunction, exec_of_failedCheck rfl, takeException_excepts hb _⟩

/-- A valid frame with an unsupported function byte is an ILLEGAL (R84, R134). -/
theorem decode_unsupported {f : List Byte} (h4 : 4 ≤ f.length) (hv : verify f = true)
    (hfc : functionCodes.contains (byteAt f 1) = false) : ∃ p, decode f = .instr (.illegal (byteAt f 1) p) := by
  rw [decode, if_neg (Nat.not_lt_of_le h4), if_pos hv]
  exact ⟨_, decodePayload_illegal hfc _⟩

/-- The Poll that serves a frame runs the request the frame decodes to (R100, R111). -/
theorem step_of_servesFrame {s : State} {i : Instr} (h : s.ServesFrame) (hd : decode s.taken = .instr i) :
    step s = exec i s.capture := by
  rw [step_captured h.drains h.fits, serve, capture_frame h.fits, capture_slaveId,
    if_neg (not_not_intro h.addressed), hd]

/-- Settles O15: such a frame runs ILLEGAL, and the exception frame takes its first two bytes from the request. -/
theorem unsupportedFunctionByteGetsException1 : Obligations.UnsupportedFunctionByteGetsException1 := by
  unfold Obligations.UnsupportedFunctionByteGetsException1
  intro s hb hserves h4 hv hfc
  obtain ⟨p, hd⟩ := decode_unsupported h4 hv (by rw [contains_functionCodes]; simpa using hfc)
  obtain ⟨t, hexec, hexcepts⟩ :=
    illegalFunctionTakesException1 s.capture (byteAt s.taken 1) p (capture_bufLength hb hserves.fits)
  refine ⟨t, (step_of_servesFrame hserves hd).trans hexec, hexcepts, ?_⟩
  obtain ⟨b, -, rfl⟩ := hexcepts
  have h0 : byteAt s.capture.buf 0 = s.slaveId := (byteAt_capture hserves.fits (by omega)).trans hserves.addressed
  have h1 : byteAt s.capture.buf 1 = byteAt s.taken 1 := byteAt_capture hserves.fits (by omega)
  rw [State.excepted, h0, h1, capture_tx]
  rfl

end Sys2Proof.Machine
end

section
/-! The frame of an opcode-table word (log 3, 4): what of it does not depend on the address byte, and its length. -/

namespace Sys2Proof

open Machine

theorem padTo_cons (n : Nat) (b : Byte) (bs : List Byte) : padTo n (b :: bs) = b :: padTo (n - 1) bs := by
  rw [padTo, padTo, List.length_cons, List.cons_append, Nat.sub_sub, Nat.add_comm 1]

theorem length_padTo (n : Nat) (bs : List Byte) : (padTo n bs).length = max n bs.length := by
  simp [padTo]; omega

theorem byteAt_padTo (n : Nat) (bs : List Byte) (k : Nat) : byteAt (padTo n bs) k = byteAt bs k := by
  by_cases hk : k < bs.length
  · exact byteAt_append_left hk
  · obtain ⟨j, rfl⟩ := Nat.exists_eq_add_of_le (Nat.le_of_not_lt hk)
    rw [padTo, byteAt_append_right]
    simp only [byteAt, List.getD_eq_getElem?_getD, List.getElem?_replicate,
      List.getElem?_eq_none (Nat.le_add_right bs.length j)]
    split <;> rfl

/-- The function byte and the operand bytes of a table word, the address byte taken off. -/
def tableHeader (nbits w : Nat) : List Byte :=
  padTo (minLength (byteAt (lowBytes ((nbits + 7) / 8) w) 0) - 3) (lowBytes ((nbits + 7) / 8) w)

/-- The bytes of a table word's frame between the address byte and the checksum. -/
def tableBody (nbits w : Nat) : List Byte :=
  (padTo (needLength (0 :: tableHeader nbits w) - 3) (tableHeader nbits w)).take 137

/-- The address byte plays no part in the rest of the frame body. -/
theorem tableFrame_eq (id : Byte) (nbits w : Nat) : tableFrame id nbits w = withChecksum (id :: tableBody nbits w) := by
  have hneed : ∀ bs, needLength (id :: bs) = needLength (0 :: bs) := fun _ => rfl
  have hfc : ∀ bs, byteAt (id :: bs) 1 = byteAt bs 0 := fun _ => rfl
  simp only [tableFrame, padTo_cons, hneed, hfc]
  rfl

theorem minLength_bounds (fc : Byte) : 4 ≤ minLength fc ∧ minLength fc ≤ 12 := by
  revert fc; decide

/-- The first byte of the body is the word's function byte. -/
theorem byteAt_tableBody (nbits w : Nat) :
    byteAt (tableBody nbits w) 0 = byteAt (lowBytes ((nbits + 7) / 8) w) 0 := by
  have hfc : byteAt (padTo (needLength (0 :: tableHeader nbits w) - 3) (tableHeader nbits w)) 0 =
      byteAt (lowBytes ((nbits + 7) / 8) w) 0 := by
    rw [byteAt_padTo, tableHeader, byteAt_padTo]
  rw [← hfc]
  exact byteAt_of_take_eq (n := 137) (by rw [tableBody, List.take_take, Nat.min_self]) (by omega)

/-- A table word's frame holds the fixed minimum of its function (R82) and fits the RawFrame. -/
theorem length_tableBody (nbits w : Nat) :
    minLength (byteAt (tableBody nbits w) 0) ≤ (tableBody nbits w).length + 3 ∧ (tableBody nbits w).length ≤ 137 := by
  have hmin := minLength_bounds (byteAt (lowBytes ((nbits + 7) / 8) w) 0)
  rw [byteAt_tableBody, tableBody, List.length_take, length_padTo, tableHeader, length_padTo]
  omega

/-- Every table word is some request, whatever the address byte. -/
theorem decode_tableFrame (nbits w : Nat) : ∃ i, ∀ id, decode (tableFrame id nbits w) = .instr i := by
  obtain ⟨hmin, -⟩ := length_tableBody nbits w
  cases hbody : tableBody nbits w with
  | nil =>
    rw [hbody] at hmin
    exact absurd hmin (by decide)
  | cons fc p =>
    rw [hbody] at hmin
    obtain ⟨i, hi⟩ := exists_decodePayload (fc := fc) (p := p) hmin
    exact ⟨i, fun id => by rw [tableFrame_eq, hbody, decode_withChecksum, hi]⟩

theorem length_tableFrame_le (id : Byte) (nbits w : Nat) : (tableFrame id nbits w).length ≤ maxFrame := by
  obtain ⟨-, hmax⟩ := length_tableBody nbits w
  rw [tableFrame_eq, length_withChecksum, List.length_cons, maxFrame_eq]
  omega

theorem byteAt_tableFrame (id : Byte) (nbits w : Nat) : byteAt (tableFrame id nbits w) 0 = id := by
  rw [tableFrame_eq]
  rfl

/-- Settles O19: the word's frame is placed where the next Poll drains it, and decodes as it does for address 1. -/
theorem fetchWordRunsTheTableRequest : Obligations.FetchWordRunsTheTableRequest := by
  unfold Obligations.FetchWordRunsTheTableRequest
  intro s nbits w hc
  obtain ⟨i, hi⟩ := decode_tableFrame nbits w
  have hl : (tableFrame s.slaveId nbits w).length ≤ maxFrame := length_tableFrame_le s.slaveId nbits w
  refine ⟨i, by rw [decodeTableWord, hi], wellFormed_of_decode (hi s.slaveId) hl,
    step_placeFrame hc hl (byteAt_tableFrame s.slaveId nbits w) (hi s.slaveId), ?_⟩
  rw [State.withFetchWord, capture_frame (by rwa [placeFrame_taken]), placeFrame_taken]

end Sys2Proof
end

section
/-! Polls that consume nothing (40_poll_and_frame_assembler.md R102, R103). -/

namespace Sys2Proof.Machine

/-- Settles O7: such a Poll appends the late bytes to the queue and reports NoFrame. -/
theorem emptyQueuePollChangesNothing : Obligations.EmptyQueuePollChangesNothing := by
  unfold Obligations.EmptyQueuePollChangesNothing
  intro s hc hempty
  exact ⟨_, step_noFrame hc hempty, rfl⟩

/-- Settles O8: such a Poll records the count, and the queue only grows by the late bytes. -/
theorem changedCountRestartsTheSilence : Obligations.ChangedCountRestartsTheSilence := by
  unfold Obligations.ChangedCountRestartsTheSilence
  intro s hs
  exact ⟨_, step_changed hs, List.prefix_append _ _, rfl⟩

end Sys2Proof.Machine
end

section
/-! Polls that drain (40_poll_and_frame_assembler.md R104 to R108): what the state holds after the drain, and that
nothing later in the Poll touches the assembler or the count of received frames. -/

namespace Sys2Proof.Machine

variable {s t : State}

/-- The transaction counters and the command record are the same in both states. -/
structure KeepsCounters (s t : State) : Prop where
  rxCnt : t.rxCnt = s.rxCnt
  txCnt : t.txCnt = s.txCnt
  errCnt : t.errCnt = s.errCnt
  cmd : t.cmd = s.cmd

/-- A Poll that drains did not follow a power-up (R261), so it starts with the counters and `cmd` as they stood. -/
theorem State.Drains.keepsCounters (h : s.Drains) : KeepsCounters s s.polled := by
  rw [polled_of_drains h]
  exact ⟨rfl, rfl, rfl, rfl⟩

/-- Stages 2 to 5 leave alone what no request writes (R108, R132, R133). -/
theorem serve_keepsEngine (h : serve s = .next t) : KeepsEngine s t := by
  obtain ⟨-, hs⟩ | ⟨-, -, hs⟩ | ⟨-, -, -, ⟨fc, -, hs⟩ | ⟨i, -, hs⟩⟩ := serve_cases s
  · obtain rfl : t = s.ignored .notAddressed := Host.Outcome.next.inj (h.symm.trans hs)
    constructor <;> rfl
  · obtain rfl : t = s.dropped .noReply := Host.Outcome.next.inj (h.symm.trans hs)
    constructor <;> rfl
  · obtain rfl : t = s.takeException .illegalDataValue := Host.Outcome.next.inj (h.symm.trans hs)
    exact takeException_keepsEngine s _
  · exact (exec_stores (hs.symm.trans h)).1

/-- Whatever follows the drain keeps the emptied queue, the cleared count and the counted frame. -/
theorem State.Drains.keepsEngine (hd : s.Drains) (h : step s = .next t) : KeepsEngine s.capture t := by
  by_cases hl : maxFrame < s.taken.length
  · obtain rfl : t = (s.polled.drain s.lateBytes).dropped .captureOverflow :=
      Host.Outcome.next.inj (h.symm.trans (step_overflow hd hl))
    constructor <;> rfl
  · exact serve_keepsEngine ((step_captured hd (Nat.le_of_not_lt hl)).symm.trans h)

/-- Settles O9: below the deadline the Poll waits; from the deadline on it drains. -/
theorem stableCountWaitsForTheDeadline : Obligations.StableCountWaitsForTheDeadline := by
  unfold Obligations.StableCountWaitsForTheDeadline
  intro s hb hc hwaiting hstable
  refine ⟨fun hearly => ⟨_, step_waiting hc hwaiting hstable (BitVec.lt_def.2 hearly), rfl⟩, fun hlate => ?_⟩
  have hd : s.Drains := ⟨hc, hwaiting, hstable, BitVec.le_def.2 hlate⟩
  obtain ⟨t, hstep, -⟩ := step_of_drains hb hd
  have hkept : KeepsEngine s.capture t := hd.keepsEngine hstep
  refine ⟨t, hstep, hkept.rxq, hkept.lastCount, ?_⟩
  rw [hkept.rxCnt, capture_rxCnt, hd.keepsCounters.rxCnt]

/-- The drain fills `F` from its first byte on with the bytes taken, as many as fit (R105). -/
theorem take_overwrite_zero (f bs : List Byte) (n : Nat) :
    (overwrite f 0 (bs.take n)).take (min bs.length n) = bs.take n := by
  have h := take_overwrite (f := f) (bs := bs.take n) (Nat.zero_le _)
  rwa [Nat.zero_add, List.length_take, Nat.min_comm] at h

/-- Settles O10: a frame that fits is served from the drained state, a longer one overflows. -/
theorem drainTakesEverythingUnread : Obligations.DrainTakesEverythingUnread := by
  unfold Obligations.DrainTakesEverythingUnread
  intro s hd
  obtain ⟨hrx, -, herr, -⟩ := hd.keepsCounters
  refine ⟨overwrite s.polled.buf 0 (s.taken.take 140), take_overwrite_zero _ _ _, fun hfits => ?_, fun hlong => ?_⟩
  · rw [step_captured hd hfits, ← hrx]
    rfl
  · rw [step_overflow hd hlong, ← hrx, ← herr]
    rfl

/-- A frame for another device ends the Poll at the address filter (R108). -/
theorem step_notAddressed (hd : s.Drains) (hl : s.taken.length ≤ maxFrame) (ha : byteAt s.taken 0 ≠ s.slaveId) :
    step s = .next (s.capture.ignored .notAddressed) := by
  rw [step_captured hd hl, serve, capture_frame hl, capture_slaveId, if_pos ha]
  rfl

/-- Settles O13: past the drain, the address filter writes nothing but `frame_len` and the outcome. -/
theorem frameForAnotherAddressIsDropped : Obligations.FrameForAnotherAddressIsDropped := by
  unfold Obligations.FrameForAnotherAddressIsDropped
  intro s hd hl ha
  obtain ⟨hrx, htx, herr, hcmd⟩ := hd.keepsCounters
  refine ⟨_, step_notAddressed hd hl ha, rfl, capture_tx s, htx, herr, hcmd, ?_, rfl, capture_nv s, rfl⟩
  rw [← hrx]
  rfl

/-- Settles O17: the frame in `F` is the bytes taken, so it passes the address filter and decodes to the request. -/
theorem stepRunsTheDecodedRequest : Obligations.StepRunsTheDecodedRequest := by
  unfold Obligations.StepRunsTheDecodedRequest
  intro s i hserves hd
  exact ⟨step_of_servesFrame hserves hd, capture_frame hserves.fits⟩

end Sys2Proof.Machine
end

section
/-! The silence before a drain (40_poll_and_frame_assembler.md R113 to R115): once a Poll observed a change, the
assembler is idle or its deadline is late enough, and every later Poll keeps it so. -/

namespace Sys2Proof.Machine

variable {s t : State} {n : Nat}

/-- A property that each step keeps while the state meets a condition holds at the end of a run whose states meet it. -/
theorem run_invariant {M : Host.Core} {P Q : M.State → Prop}
    (hstep : ∀ u v, Q u → P u → M.step u = .next v → P v) {k : Nat} {s t : M.State}
    (hQ : ∀ j u, j < k → M.run j s = .next u → Q u) (hP : P s) (hrun : M.run k s = .next t) : P t := by
  induction k generalizing s with
  | zero => exact Host.Outcome.next.inj hrun ▸ hP
  | succ k ih =>
    cases hs : M.step s with
    | next v =>
      have hQ' : ∀ j u, j < k → M.run j v = .next u → Q u := fun j u hj hu =>
        hQ (j + 1) u (by omega) ((run_of_next hs j).trans hu)
      exact ih hQ' (hstep s v (hQ 0 s (by omega) rfl) hP hs) ((run_of_next hs k).symm.trans hrun)
    | fault r => simp [Host.Core.run, hs] at hrun
    | refused r => rw [run_of_refused hs] at hrun; cases hrun

/-- The machine does not drain before the clock shows `n`: the assembler is idle, or its deadline is `n` or later. -/
def State.SilentUntil (n : Nat) (s : State) : Prop := s.lastCount = 0 ∨ n ≤ s.deadline.toNat

/-- The clock of the next Poll is not below `lo` (R57), and `T35` later it has not wrapped (R278). -/
def State.ClockFrom (lo : Nat) (s : State) : Prop :=
  lo ≤ s.polled.now.toNat ∧ s.polled.now.toNat + 5 < 2 ^ 64

theorem State.SilentUntil.polled (h : s.SilentUntil n) : s.polled.SilentUntil n := by
  obtain ⟨hcount, hdeadline⟩ | hidle := polled_count s
  · rwa [State.SilentUntil, hcount, hdeadline]
  · exact .inl hidle

/-- A drain needs a recorded count and a passed deadline (R105). -/
theorem State.SilentUntil.le_now_of_drains (h : s.SilentUntil n) (hd : s.Drains) : n ≤ s.polled.now.toNat := by
  obtain hidle | hdeadline := h.polled
  · exact absurd (List.eq_nil_of_length_eq_zero (hd.stable.trans hidle)) hd.waiting
  · exact hdeadline.trans (BitVec.le_def.1 hd.silent)

theorem deadline_recordCount (h : s.now.toNat + 5 < 2 ^ 64) : s.recordCount.deadline.toNat = s.now.toNat + 5 := by
  rw [recordCount_deadline, BitVec.toNat_add, show (BitVec.ofNat 64 t35).toNat = 5 from rfl, Nat.mod_eq_of_lt h]

/-- The Poll that observes a change starts the silence (R103, R114). -/
theorem silentUntil_of_observesChange {lo : Nat} (hs : s.ObservesChange) (hclock : s.ClockFrom lo)
    (h : step s = .next t) : t.SilentUntil (lo + 5) := by
  obtain ⟨hlo, hwrap⟩ := hclock
  obtain rfl : t = (s.polled.recordCount.enqueue s.lateBytes).report .pending :=
    Host.Outcome.next.inj (h.symm.trans (step_changed hs))
  right
  rw [report_deadline, enqueue_deadline, deadline_recordCount hwrap]
  omega

/-- Every later Poll keeps the silence, starts one that ends no earlier, or drains and leaves the assembler idle. -/
theorem step_keeps_silentUntil {lo : Nat} (hclock : s.ClockFrom lo) (hs : s.SilentUntil (lo + 5))
    (h : step s = .next t) : t.SilentUntil (lo + 5) := by
  have hwaits : ∀ o, step s = .next ((s.polled.enqueue s.lateBytes).report o) → t.SilentUntil (lo + 5) := by
    intro o ho
    obtain rfl : t = (s.polled.enqueue s.lateBytes).report o := Host.Outcome.next.inj (h.symm.trans ho)
    exact hs.polled
  obtain ⟨r, -, hr⟩ | ⟨-, -, hw⟩ | ⟨hobserves, -⟩ | ⟨-, -, -, -, hw⟩ | ⟨hd, -⟩ | ⟨hd, -⟩ := step_cases s
  · rw [hr] at h; cases h
  · exact hwaits _ hw
  · exact silentUntil_of_observesChange hobserves hclock h
  · exact hwaits _ hw
  · exact .inl (hd.keepsEngine h).lastCount
  · exact .inl (hd.keepsEngine h).lastCount

/-- Settles O12: the silence that the observing Poll starts stands at every later Poll, so also at the one that
drains. -/
theorem noDrainWithinT35OfAnObservedChange : Obligations.NoDrainWithinT35OfAnObservedChange := by
  unfold Obligations.NoDrainWithinT35OfAnObservedChange
  intro s t k hs hwrap hk hclock hrun hd
  obtain ⟨m, rfl⟩ := Nat.exists_eq_add_of_le' hk
  have hfirst : Sys2Proof.core.step s = .next ((s.polled.recordCount.enqueue s.lateBytes).report .pending) :=
    step_changed hs
  have hsilent : State.SilentUntil (s.polled.now.toNat + 5) t := by
    refine run_invariant (M := Sys2Proof.core) (P := State.SilentUntil (s.polled.now.toNat + 5))
      (Q := State.ClockFrom s.polled.now.toNat) (fun u v => step_keeps_silentUntil) (fun j u hj hu => ?_)
      (silentUntil_of_observesChange hs ⟨Nat.le_refl _, hwrap⟩ hfirst) ((run_of_next hfirst m).symm.trans hrun)
    exact hclock (j + 1) u (by omega) (by omega) ((run_of_next hfirst j).trans hu)
  exact hsilent.le_now_of_drains hd

end Sys2Proof.Machine
end

section
/-! The watchdog (40_poll_and_frame_assembler.md R110): its deadline is written and never read, and WD_TIMEOUT goes into
nothing but that deadline, so each stage of a Poll takes two states that differ only in them to two such states. -/

namespace Sys2Proof.Machine

/-- The state `s` with another watchdog deadline and another WD_TIMEOUT. -/
def State.withWatchdog (w : Time) (n : Nat) (s : State) : State :=
  { s with wdDeadline := w, cfg := { s.cfg with wdTimeout := n } }

/-- Two results that are states which differ only in the watchdog deadline and in WD_TIMEOUT, `n` in the second. -/
def SameButWatchdog (n : Nat) (o o' : Host.Outcome State Fault Refusal) : Prop :=
  ∃ t w, o = .next t ∧ o' = .next (t.withWatchdog w n)

variable {s : State}

/-! ## What a meaning reads and writes, past the watchdog -/

section
variable (s : State) (w : Time) (n : Nat)

@[simp] theorem withWatchdog_map : (s.withWatchdog w n).map = s.map := rfl
@[simp] theorem withWatchdog_nv : (s.withWatchdog w n).nv = s.nv := rfl
@[simp] theorem withWatchdog_freeIdx : (s.withWatchdog w n).freeIdx = s.freeIdx := rfl
@[simp] theorem withWatchdog_idString : (s.withWatchdog w n).cfg.idString = s.cfg.idString := rfl
@[simp] theorem withWatchdog_idTrailer0 : (s.withWatchdog w n).cfg.idTrailer0 = s.cfg.idTrailer0 := rfl
@[simp] theorem withWatchdog_idTrailer1 : (s.withWatchdog w n).cfg.idTrailer1 = s.cfg.idTrailer1 := rfl

/-- Arming overwrites the deadline (R110). -/
@[simp] theorem armWatchdog_withWatchdog :
    (s.withWatchdog w n).armWatchdog = s.armWatchdog.withWatchdog (s.now + BitVec.ofNat 64 n) n := rfl

@[simp] theorem setCo_withWatchdog (co : Word) :
    (s.withWatchdog w n).setCo co = (s.setCo co).withWatchdog w n := rfl

@[simp] theorem setHr_withWatchdog (hr : List Word) :
    (s.withWatchdog w n).setHr hr = (s.setHr hr).withWatchdog w n := rfl

@[simp] theorem setNv_withWatchdog (m : Memory) :
    (s.withWatchdog w n).setNv m = (s.setNv m).withWatchdog w n := rfl

@[simp] theorem drawFree_withWatchdog (k : Nat) :
    (s.withWatchdog w n).drawFree k = (s.drawFree k).withWatchdog w n := rfl

@[simp] theorem writeF_withWatchdog (k : Nat) (bs : List Byte) :
    (s.withWatchdog w n).writeF k bs = (s.writeF k bs).withWatchdog w n := rfl

@[simp] theorem setFrameLen_withWatchdog (k : Nat) :
    (s.withWatchdog w n).setFrameLen k = (s.setFrameLen k).withWatchdog w n := rfl

@[simp] theorem setCmd_withWatchdog (fc : Byte) (addr count : Nat) :
    (s.withWatchdog w n).setCmd fc addr count = (s.setCmd fc addr count).withWatchdog w n := rfl

@[simp] theorem respond_withWatchdog : (s.withWatchdog w n).respond = s.respond.withWatchdog w n := rfl

@[simp] theorem dropWithError_withWatchdog (o : PollOutcome) :
    (s.withWatchdog w n).dropWithError o = (s.dropWithError o).withWatchdog w n := rfl

@[simp] theorem takeException_withWatchdog (c : ExcCode) :
    (s.withWatchdog w n).takeException c = (s.takeException c).withWatchdog w n := rfl

@[simp] theorem readBits_withWatchdog (fc : Byte) (v start qty : Word) :
    readBits fc v start qty (s.withWatchdog w n) = (readBits fc v start qty s).withWatchdog w n := by
  simp only [readBits, writeF_withWatchdog, setFrameLen_withWatchdog, setCmd_withWatchdog, respond_withWatchdog]

@[simp] theorem readRegisters_withWatchdog (fc : Byte) (arr : List Word) (len : Nat) (start qty : Word) :
    readRegisters fc arr len start qty (s.withWatchdog w n) =
      (readRegisters fc arr len start qty s).withWatchdog w n := by
  unfold readRegisters
  split <;> simp

theorem failedCheck_withWatchdog (i : Instr) : failedCheck i (s.withWatchdog w n) = failedCheck i s := by
  cases i <;> rfl

end

/-! ## The stages of a Poll -/

/-- A request that passes its checks writes the watchdog deadline and does not read it. -/
theorem exec_sameButWatchdog_of_passed {i : Instr} (hc : failedCheck i s = none) (w : Time) (n : Nat) :
    SameButWatchdog n (exec i s) (exec i (s.withWatchdog w n)) := by
  have hc' : failedCheck i (s.withWatchdog w n) = none := (failedCheck_withWatchdog s w n i).trans hc
  cases i with
  | rptid r =>
    simp only [exec, execRptid, armWatchdog_withWatchdog]
    exact ⟨_, s.now + BitVec.ofNat 64 n, rfl, by simp⟩
  | illegal fc p => cases hc
  | _ =>
    simp only [failedCheck] at hc hc'
    simp only [exec, execRdcoil, execRddisc, execRdhold, execRdinp, execWrcoil, execWrreg, execWrmcoil, execWrmreg,
      execWrfile, hc, hc']
    exact ⟨_, s.now + BitVec.ofNat 64 n, rfl, by simp⟩

theorem exec_sameButWatchdog (i : Instr) (s : State) (w : Time) (n : Nat) :
    SameButWatchdog n (exec i s) (exec i (s.withWatchdog w n)) := by
  cases hc : failedCheck i s with
  | none => exact exec_sameButWatchdog_of_passed hc w n
  | some c =>
    have hc' : failedCheck i (s.withWatchdog w n) = some c := (failedCheck_withWatchdog s w n i).trans hc
    exact ⟨_, w, exec_of_failedCheck hc, by rw [exec_of_failedCheck hc', takeException_withWatchdog]⟩

/-- Stages 2 to 5 read neither, and write the deadline alone. -/
theorem serve_sameButWatchdog (s : State) (w : Time) (n : Nat) :
    SameButWatchdog n (serve s) (serve (s.withWatchdog w n)) := by
  have hframe : (s.withWatchdog w n).frame = s.frame := rfl
  have hid : (s.withWatchdog w n).slaveId = s.slaveId := rfl
  unfold serve
  rw [hframe, hid]
  by_cases ha : byteAt s.frame 0 ≠ s.slaveId
  · rw [if_pos ha, if_pos ha]
    exact ⟨_, w, rfl, rfl⟩
  · rw [if_neg ha, if_neg ha]
    cases hd : decode s.frame with
    | instr i => exact exec_sameButWatchdog i s w n
    | rejected e => cases e <;> exact ⟨_, w, rfl, rfl⟩

/-- Stage 1 (R102 to R106) neither reads nor writes them. -/
theorem poll_sameButWatchdog (late : List Byte) (s : State) (w : Time) (n : Nat) :
    SameButWatchdog n (poll late s) (poll late (s.withWatchdog w n)) := by
  have hrxq : (s.withWatchdog w n).rxq = s.rxq := rfl
  have hcount : (s.withWatchdog w n).lastCount = s.lastCount := rfl
  have hnow : (s.withWatchdog w n).now = s.now := rfl
  have hdeadline : (s.withWatchdog w n).deadline = s.deadline := rfl
  unfold poll assemble
  simp only [hrxq, hcount, hnow, hdeadline]
  split_ifs
  · exact ⟨_, w, rfl, rfl⟩
  · exact ⟨_, w, rfl, rfl⟩
  · exact ⟨_, w, rfl, rfl⟩
  · exact ⟨_, w, rfl, rfl⟩
  · exact serve_sameButWatchdog ((s.drain late).setFrameLen (s.rxq ++ late).length) w n

/-- The inputs of a Poll leave the watchdog alone, or a power-up before it clears the deadline (R43). -/
theorem polled_withWatchdog (s : State) (w : Time) (n : Nat) :
    ∃ w', (s.withWatchdog w n).polled = s.polled.withWatchdog w' n := by
  cases hsched : s.schedule with
  | nil => exact ⟨w, by rw [polled_nil hsched, polled_nil (s := s.withWatchdog w n) hsched]⟩
  | cons p rest =>
    rw [polled_cons hsched, polled_cons (s := s.withWatchdog w n) hsched]
    cases hp : p.powerUp with
    | true => exact ⟨0, by simp only [State.applyInput, hp, if_true]; rfl⟩
    | false => exact ⟨w, by simp only [State.applyInput, hp, Bool.false_eq_true, if_false]; rfl⟩

theorem lateBytes_withWatchdog (s : State) (w : Time) (n : Nat) : (s.withWatchdog w n).lateBytes = s.lateBytes := by
  cases hsched : s.schedule <;> simp [State.lateBytes, State.beginPoll, State.withWatchdog, hsched]

/-- Settles O54: the inputs of the Poll read nothing of the watchdog, and so does each stage. -/
theorem watchdogNeverMatters : Obligations.WatchdogNeverMatters := by
  unfold Obligations.WatchdogNeverMatters
  intro s t w n hstep
  obtain ⟨w', hpolled⟩ := polled_withWatchdog s w n
  have hc : s.Configured := configured_of_step hstep
  have hc' : (s.withWatchdog w n).Configured := by rw [State.Configured, hpolled]; exact hc
  obtain ⟨u, w'', hu, hu'⟩ := poll_sameButWatchdog s.lateBytes s.polled w' n
  obtain rfl : u = t := Host.Outcome.next.inj (hu.symm.trans ((step_configured hc).symm.trans hstep))
  refine ⟨w'', ?_⟩
  calc step (s.withWatchdog w n)
    _ = poll (s.withWatchdog w n).lateBytes (s.withWatchdog w n).polled := step_configured hc'
    _ = poll s.lateBytes (s.polled.withWatchdog w' n) := by rw [lateBytes_withWatchdog, hpolled]
    _ = .next (u.withWatchdog w'' n) := hu'

end Sys2Proof.Machine
end

section
/-! The checksum (41_checksum.md): the worked values (R126), the order of the two bytes (R122), and error detection
(R124). A frame that verifies leaves the CRC register at 0, and a single changed byte changes the register. -/

namespace Sys2Proof.Machine

variable {f : List Byte} {k : Nat}

/-- The bytes appended are the two halves of the register, low byte first (R121, R122). -/
theorem checksumBytes_eq (body : List Byte) : checksumBytes body = [lo (crcReg body), hi (crcReg body)] := by
  rw [checksumBytes, checksum, hi_be, lo_be]

/-- A row of the table of R126 follows from its register. -/
theorem workedRow_of_crcReg {bs : List Byte} {r : Word} (h : crcReg bs = r) :
    crcReg bs = r ∧ checksum bs = be (lo r) (hi r) ∧ checksumBytes bs = [lo r, hi r] := by
  subst h
  exact ⟨rfl, rfl, checksumBytes_eq bs⟩

/-- Settles O4: each row from its register, and the shifts of the byte 01 one by one. -/
theorem checksumWorkedValues : Obligations.ChecksumWorkedValues := by
  unfold Obligations.ChecksumWorkedValues
  refine ⟨workedRow_of_crcReg ?_, workedRow_of_crcReg ?_, workedRow_of_crcReg ?_, workedRow_of_crcReg ?_,
    workedRow_of_crcReg ?_, workedRow_of_crcReg ?_, workedRow_of_crcReg ?_, workedRow_of_crcReg ?_, ?_⟩ <;> decide +kernel

/-- Settles O5: the checksum value is the register with its bytes exchanged. -/
theorem checksumGoesRegisterLowByteFirst : Obligations.ChecksumGoesRegisterLowByteFirst := by
  unfold Obligations.ChecksumGoesRegisterLowByteFirst
  intro body
  exact ⟨by rw [withChecksum, checksumBytes_eq], rfl⟩

theorem crcReg_append (f g : List Byte) : crcReg (f ++ g) = g.foldl crcByte (crcReg f) :=
  List.foldl_append

/-- At one position, frames that agree elsewhere have different registers for different bytes. -/
theorem crcReg_set_injective (hk : k < f.length) : Function.Injective fun b => crcReg (f.set k b) := by
  intro a b h
  have hset : ∀ c, crcReg (f.set k c) = (f.drop (k + 1)).foldl crcByte (crcByte (crcReg (f.take k)) c) := fun c => by
    rw [List.set_eq_take_append_cons_drop, if_pos hk, crcReg_append, List.foldl_cons]
  simp only [hset] at h
  exact crcByte_injective_byte _ (foldl_crcByte_injective _ h)

theorem set_byteAt (f : List Byte) (k : Nat) : f.set k (byteAt f k) = f := by
  refine List.ext_getElem (List.length_set ..) fun i _ hi => ?_
  obtain rfl | hne := eq_or_ne k i
  · simp [byteAt, hi]
  · simp [hne]

theorem xor_twoPow_ne (b : Byte) {bit : Nat} (h : bit < 8) : b ^^^ BitVec.twoPow 8 bit ≠ b := by
  intro he
  have hbit := congrArg (BitVec.getLsbD · bit) he
  simp [h] at hbit

/-- A frame that verifies is its own body with the checksum appended (R123). -/
theorem withChecksum_take_of_verify (h2 : 2 ≤ f.length) (hv : verify f = true) :
    withChecksum (f.take (f.length - 2)) = f := by
  rw [verify, beq_iff_eq] at hv
  rw [withChecksum, checksumBytes, hv, be16, hi_be, lo_be]
  have hdrop : f.drop (f.length - 2) = [byteAt f (f.length - 2), byteAt f (f.length - 2 + 1)] := by
    rw [List.drop_eq_getElem_cons (by omega), List.drop_eq_getElem_cons (by omega), List.drop_of_length_le (by omega)]
    simp [byteAt, show f.length - 2 < f.length by omega, show f.length - 2 + 1 < f.length by omega]
  rw [← hdrop, List.take_append_drop]

/-- The register is 0 over every frame that verifies (R124). -/
theorem crcReg_of_verify (h2 : 2 ≤ f.length) (hv : verify f = true) : crcReg f = 0 := by
  rw [← withChecksum_take_of_verify h2 hv, crcReg_withChecksum]

/-- Settles O6: a flipped frame that verified would have the register of the frame sent, 0, and so the same byte. -/
theorem checksumCatchesEverySingleBitError : Obligations.ChecksumCatchesEverySingleBitError := by
  unfold Obligations.ChecksumCatchesEverySingleBitError
  intro body
  refine ⟨verify_withChecksum body, fun k bit hk hbit => ?_, crcReg_withChecksum body⟩
  have h2 : 2 ≤ (withChecksum body).length := by rw [length_withChecksum]; omega
  rw [Bool.eq_false_iff]
  intro hv
  refine xor_twoPow_ne (byteAt (withChecksum body) k) hbit (crcReg_set_injective hk ?_)
  calc crcReg ((withChecksum body).set k (byteAt (withChecksum body) k ^^^ BitVec.twoPow 8 bit))
    _ = 0 := crcReg_of_verify (by rwa [List.length_set]) hv
    _ = crcReg (withChecksum body) := (crcReg_withChecksum body).symm
    _ = crcReg ((withChecksum body).set k (byteAt (withChecksum body) k)) := by rw [set_byteAt]

end Sys2Proof.Machine
end

section
/-! The checks of the validator at a meaning (42_request_validator.md R136 to R147): a request takes an exception
exactly when a check of its function fails, and then the one the check names. -/

namespace Sys2Proof.Machine

variable {s t : State} {i : Instr} {c : ExcCode}

/-- A request that fails a check ends in the exception the check names. -/
theorem exec_excepts (hb : s.buf.length = maxFrame) (h : failedCheck i s = some c) :
    ∃ t, exec i s = .next t ∧ s.Excepts c t :=
  ⟨_, exec_of_failedCheck h, takeException_excepts hb c⟩

/-- A request that passes its checks ends in an answer, or in a response too long to be built (R182). -/
theorem exec_of_passed (h : failedCheck i s = none) :
    ∃ t, exec i s = .next t ∧ (t.outcome = some .respOverflow ∨ ∃ m, t.outcome = some (.done m)) := by
  cases exec_form i s with
  | exception c failed he => rw [h] at failed; cases failed
  | overflow passed he => exact ⟨_, he s.buf, .inl rfl⟩
  | answer passed bs fc addr count atMost he => exact ⟨_, he s.buf, .inr ⟨_, answerWith_outcome _ _ _ _ _ _⟩⟩

/-- An exception reported is that of a failed check. -/
theorem failedCheck_of_exception (h : exec i s = .next t) (ho : t.outcome = some (.exception c)) :
    failedCheck i s = some c := by
  cases hc : failedCheck i s with
  | some d =>
    obtain rfl : t = s.takeException d := Host.Outcome.next.inj (h.symm.trans (exec_of_failedCheck hc))
    simpa using ho
  | none =>
    obtain ⟨u, hu, hends⟩ := exec_of_passed hc
    obtain rfl : t = u := Host.Outcome.next.inj (h.symm.trans hu)
    obtain hover | ⟨m, hdone⟩ := hends
    · rw [hover] at ho; cases ho
    · rw [hdone] at ho; cases ho

theorem outcome_ne_exception (hc : failedCheck i s ≠ some c) (h : exec i s = .next t) :
    t.outcome ≠ some (.exception c) :=
  fun ho => hc (failedCheck_of_exception h ho)

/-! ## Functions 1, 2 and 15 (R136) -/

section
variable {start qty : Word} {bytes : List Byte} {bytecnt : Byte}

/-- The range check comes before the data length (R148). -/
theorem failedCheck_of_bitRange
    (hi : i = .rdcoil start qty bytes ∨ i = .rddisc start qty bytes ∨ i = .wrmcoil start qty bytecnt bytes)
    (h : checkBitRange start qty = some c) : failedCheck i s = some c := by
  obtain rfl | rfl | rfl := hi
  · exact h
  · exact h
  · rw [failedCheck, h, Option.some_or]

theorem readBits_outcome (fc : Byte) (w start qty : Word) (s : State) :
    ∃ m, (readBits fc w start qty s).outcome = some (.done m) := by
  simp [readBits]

/-- The bit functions that pass the checks are answered: no response of theirs is too long. -/
theorem exec_bitFunction_done
    (hi : i = .rdcoil start qty bytes ∨ i = .rddisc start qty bytes ∨ i = .wrmcoil start qty bytecnt bytes)
    (hc : failedCheck i s = none) : ∃ t m, exec i s = .next t ∧ t.outcome = some (.done m) := by
  obtain rfl | rfl | rfl := hi
  · obtain ⟨m, hm⟩ := readBits_outcome 1 s.map.co start qty s.armWatchdog
    rw [failedCheck] at hc
    exact ⟨_, m, by simp only [exec, execRdcoil, hc], hm⟩
  · obtain ⟨m, hm⟩ := readBits_outcome 2 s.map.di start qty s.armWatchdog
    rw [failedCheck] at hc
    exact ⟨_, m, by simp only [exec, execRddisc, hc], hm⟩
  · obtain ⟨addr, count, h⟩ := exec_write (i := .wrmcoil start qty bytecnt bytes) (by simp [Instr.functionCode]) _
    exact ⟨_, _, h s rfl hc, answerWith_outcome _ _ _ _ _ _⟩

theorem checkBitRange_zero (hq : qty.toNat = 0) (hs : start.toNat ≤ 15) : checkBitRange start qty = none := by
  rw [checkBitRange_eq, if_neg (by omega), if_neg (by omega)]

/-- A quantity of 0 within the 16 positions passes, with no data byte needed. -/
theorem failedCheck_zero_bits
    (hi : i = .rdcoil start qty bytes ∨ i = .rddisc start qty bytes ∨ i = .wrmcoil start qty bytecnt bytes)
    (hq : qty.toNat = 0) (hs : start.toNat ≤ 15) : failedCheck i s = none := by
  obtain rfl | rfl | rfl := hi
  · exact checkBitRange_zero hq hs
  · exact checkBitRange_zero hq hs
  · rw [failedCheck, checkBitRange_zero hq hs, Option.none_or, hq]
    exact if_neg (Nat.not_lt_zero _)

end

/-- Settles O30: the range check names the exception, and with quantity 0 nothing fails. -/
theorem bitRangeViolations : Obligations.BitRangeViolations := by
  unfold Obligations.BitRangeViolations
  intro s start qty bytes bytecnt i hb hi
  refine ⟨fun hq => ?_, fun hq hrange => ?_, fun hq hs => exec_bitFunction_done hi (failedCheck_zero_bits hi hq hs)⟩
  · exact exec_excepts hb (failedCheck_of_bitRange hi (if_pos hq))
  · refine exec_excepts hb (failedCheck_of_bitRange hi ?_)
    rw [checkBitRange_eq, if_neg (Nat.not_lt_of_le hq), if_pos hrange]

/-- Settles O31: the check of function 5 reads the address and the marker alone. -/
theorem coilWriteViolations : Obligations.CoilWriteViolations := by
  unfold Obligations.CoilWriteViolations
  intro s start onoff ignored surplus hb
  refine ⟨fun h0 hFF => exec_excepts hb (if_pos ⟨h0, hFF⟩), fun hmarker hs => exec_excepts hb ?_⟩
  rw [failedCheck, checkCoilWrite_eq, if_neg (by tauto), if_pos hs]

/-! ## Functions 3, 4, 6 and 16 (R139 to R142) -/

theorem checkEndAddress_beyond {declared start qty : Nat} (h : declared < (start + qty) % 256) :
    checkEndAddress declared start qty = some .illegalDataAddress :=
  if_pos h

theorem checkEndAddress_within {declared start qty : Nat} (h : (start + qty) % 256 ≤ declared) :
    checkEndAddress declared start qty = none :=
  if_neg (Nat.not_lt_of_le h)

/-- Missing data is never a fault of the address (R147). -/
theorem checkDataLength_ne_illegalDataAddress (present needed : Nat) :
    checkDataLength present needed ≠ some .illegalDataAddress := by
  unfold checkDataLength
  split <;> simp

theorem checkDataLength_missing {present needed : Nat} (h : present < needed) :
    checkDataLength present needed = some .illegalDataValue :=
  if_pos h

/-- Settles O32: the end address check is the one that names exception 2, and it reads the declared count and the
truncated end address alone. -/
theorem endAddressViolations : Obligations.EndAddressViolations := by
  unfold Obligations.EndAddressViolations
  intro s start qty bytes bytecnt hb
  refine ⟨fun h => ⟨exec_excepts hb (checkEndAddress_beyond h), exec_excepts hb ?_⟩,
    fun h => exec_excepts hb (checkEndAddress_beyond h), fun h => exec_excepts hb (checkEndAddress_beyond h),
    fun h t hexec => ?_, fun h t => outcome_ne_exception ?_, fun h t => outcome_ne_exception ?_⟩
  · rw [failedCheck, checkEndAddress_beyond h, Option.some_or]
  · obtain hrdhold | hwrmreg := hexec
    · refine outcome_ne_exception ?_ hrdhold
      simp [failedCheck, checkEndAddress_within h]
    · refine outcome_ne_exception ?_ hwrmreg
      rw [failedCheck, checkEndAddress_within h, Option.none_or]
      exact checkDataLength_ne_illegalDataAddress _ _
  · simp [failedCheck, checkEndAddress_within h]
  · simp [failedCheck, checkEndAddress_within h]

/-! ## Function 21 (R145) -/

section
variable {cap : Nat} {reftype : Byte} {fileno recno reclen : Word}

theorem checkFileRange_violated
    (h : reftype ≠ 6 ∨ fileno ≠ 1 ∨ cap < 2 * recno.toNat + 2 * reclen.toNat) :
    checkFileRange cap reftype fileno recno reclen = some .illegalDataAddress := by
  rw [checkFileRange_eq, ← ite_or, ← ite_or, if_pos]
  tauto

theorem checkFileRange_within (hr : reftype = 6) (hf : fileno = 1)
    (h : 2 * recno.toNat + 2 * reclen.toNat ≤ cap) : checkFileRange cap reftype fileno recno reclen = none := by
  rw [checkFileRange_eq, if_neg (not_not_intro hr), if_neg (not_not_intro hf), if_neg (Nat.not_lt_of_le h)]

end

theorem State.Excepts.nv (h : s.Excepts c t) : t.nv = s.nv := by
  obtain ⟨b, -, rfl⟩ := h
  rfl

/-- Settles O33: the file range check is the one that names exception 2, and an exception writes no store byte. -/
theorem fileRecordViolations : Obligations.FileRecordViolations := by
  unfold Obligations.FileRecordViolations
  intro s dlen reftype fileno recno reclen data hb
  refine ⟨fun h => ?_, fun hr hf h t => outcome_ne_exception ?_⟩
  · obtain ⟨t, hexec, hexcepts⟩ := exec_excepts (i := .wrfile dlen reftype fileno recno reclen data) hb
      (by rw [failedCheck, checkFileRange_violated h, Option.some_or])
    exact ⟨t, hexec, hexcepts, hexcepts.nv⟩
  · rw [failedCheck, checkFileRange_within hr hf h, Option.none_or]
    exact checkDataLength_ne_illegalDataAddress _ _

/-- Settles O34: with the range checks passed, the data length is what fails. -/
theorem missingDataGetsException3 : Obligations.MissingDataGetsException3 := by
  unfold Obligations.MissingDataGetsException3
  intro s start qty b recno reclen data hb
  refine ⟨fun hq hs hend h => exec_excepts hb ?_, fun hend h => exec_excepts hb ?_,
    fun hrange h => exec_excepts hb ?_⟩
  · rw [failedCheck, checkBitRange_eq, if_neg (by omega), if_neg (by omega), Option.none_or]
    exact checkDataLength_missing h
  · rw [failedCheck, checkEndAddress_within hend, Option.none_or, wordCount_eq]
    exact checkDataLength_missing h
  · rw [failedCheck, checkFileRange_within rfl rfl hrange, Option.none_or]
    exact checkDataLength_missing h

end Sys2Proof.Machine
end

section
/-! The fixed minimum lengths (30_encoding.md R82, 42_request_validator.md R135): a frame decodes to a request exactly
from the minimum of its function on, and ILLEGAL has none. -/

namespace Sys2Proof

open Machine

variable {fc : Byte} {p f : List Byte} {i : Instr}

/-- The fixed minimum by the number of the function (R82). -/
theorem minLength_eq (fc : Byte) : minLength fc =
    if fc.toNat ∈ [1, 2, 3, 4, 5, 6] then 8 else if fc.toNat ∈ [15, 16] then 9
    else if fc.toNat = 21 then 12 else 4 := by
  revert fc; decide

theorem minLength_unsupported (h : functionCodes.contains fc = false) : minLength fc = 4 := by
  revert fc; decide

/-- Every request is at least as long as the fixed minimum of its function. -/
theorem minLength_le_requestLength (h : i.illegalIsIllegal = true) : minLength i.functionCode ≤ i.requestLength := by
  cases i with
  | illegal fc payload =>
    rw [Instr.functionCode, minLength_unsupported (by simpa [Instr.illegalIsIllegal] using h)]
    exact Nat.le_add_right _ _
  | _ => exact Nat.le_add_right _ _

theorem functionCode_of_decode (h : decode f = .instr i) : byteAt f 1 = i.functionCode := by
  rw [(decode_eq_instr h).1]
  rfl

theorem minLength_le_of_decode (h : decode f = .instr i) : minLength (byteAt f 1) ≤ f.length := by
  obtain ⟨-, hillegal, hlen⟩ := decode_eq_instr h
  rw [functionCode_of_decode h, ← hlen]
  exact minLength_le_requestLength hillegal

/-- The decoder rejects a frame for its length only where the function is supported and has a longer minimum. -/
theorem short_of_decode (h : decode f = .rejected (.shortForFunction fc)) :
    functionCodes.contains (byteAt f 1) = true ∧ f.length < minLength (byteAt f 1) := by
  obtain ⟨-, hd⟩ | ⟨-, -, hd⟩ | ⟨-, -, a, g, p, -, -, hg, hlen, hd⟩ := decode_cases f
  · rw [hd] at h; cases h
  · rw [hd] at h; cases h
  · rw [hd] at h
    rw [hg]
    constructor
    · by_contra hc
      rw [decodePayload_illegal (by simpa using hc)] at h
      cases h
    · by_contra hc
      obtain ⟨i, hi⟩ := exists_decodePayload (fc := g) (p := p) (by omega)
      rw [hi] at h
      cases h

end Sys2Proof
end

section
/-! The Poll that serves a frame (42_request_validator.md R130 to R135): no reply, exception 3 for a frame below its
minimum, or the meaning of the request. -/

namespace Sys2Proof.Machine

variable {s t : State}

/-- The ways a frame for this device goes, by its checksum and by what the decoder makes of it. -/
theorem State.ServesFrame.step_cases (h : s.ServesFrame) :
    ((s.taken.length < 4 ∨ verify s.taken = false) ∧ step s = .next (s.capture.dropped .noReply)) ∨
    (4 ≤ s.taken.length ∧ verify s.taken = true ∧
      ((∃ fc, decode s.taken = .rejected (.shortForFunction fc) ∧
          step s = .next (s.capture.takeException .illegalDataValue)) ∨
        ∃ i, decode s.taken = .instr i ∧ step s = exec i s.capture)) := by
  have hcases := serve_cases s.capture
  rw [capture_frame h.fits, capture_slaveId, ← step_captured h.drains h.fits] at hcases
  obtain ⟨hother, -⟩ | ⟨-, hbad⟩ | ⟨-, hvalid⟩ := hcases
  · exact absurd h.addressed hother
  · exact .inl hbad
  · exact .inr hvalid

theorem not_shortOrCorrupt_of_valid {f : List Byte} (h4 : 4 ≤ f.length) (hv : verify f = true) :
    ¬(f.length < 4 ∨ verify f = false) := by
  simp [hv, h4]

/-- Settles O14: dropping such a frame writes `frame_len`, `err_cnt` and the outcome alone. -/
theorem shortOrCorruptFrameIsSilent : Obligations.ShortOrCorruptFrameIsSilent := by
  unfold Obligations.ShortOrCorruptFrameIsSilent
  intro s hserves hbad
  obtain ⟨hrx, htx, herr, hcmd⟩ := hserves.drains.keepsCounters
  obtain ⟨-, hs⟩ | ⟨h4, hv, -⟩ := hserves.step_cases
  · refine ⟨_, hs, rfl, capture_tx s, htx, ?_, hcmd, ?_, rfl, capture_nv s, rfl⟩
    · rw [← herr]; rfl
    · rw [← hrx]; rfl
  · exact absurd hbad (not_shortOrCorrupt_of_valid h4 hv)

/-- The exception frame takes its first two bytes from the request (R216). -/
theorem State.ServesFrame.excepts_tx {c : ExcCode} (h : s.ServesFrame) (h4 : 4 ≤ s.taken.length)
    (he : s.capture.Excepts c t) :
    t.tx = s.tx ++ [withChecksum [s.slaveId, byteAt s.taken 1 ||| 0x80, c.toByte]] := by
  obtain ⟨b, -, rfl⟩ := he
  have h0 : byteAt s.capture.buf 0 = s.slaveId := (byteAt_capture h.fits (by omega)).trans h.addressed
  have h1 : byteAt s.capture.buf 1 = byteAt s.taken 1 := byteAt_capture h.fits (by omega)
  rw [State.excepted, h0, h1, capture_tx]

/-- Settles O16: no request is that short, so the decoder rejects the frame. -/
theorem frameBelowItsMinimumGetsException3 : Obligations.FrameBelowItsMinimumGetsException3 := by
  unfold Obligations.FrameBelowItsMinimumGetsException3
  intro s hb hserves h4 hv hshort
  have hmin : s.taken.length < minLength (byteAt s.taken 1) := by
    rw [minLength_eq]
    obtain ⟨hfc, hlt⟩ | ⟨hfc, hlt⟩ | ⟨hfc, hlt⟩ := hshort
    · rwa [if_pos hfc]
    · have hnum : (byteAt s.taken 1).toNat = 15 ∨ (byteAt s.taken 1).toNat = 16 := by simpa using hfc
      obtain h15 | h16 := hnum
      · rw [h15]; exact hlt
      · rw [h16]; exact hlt
    · rw [hfc]; exact hlt
  obtain ⟨hbad, -⟩ | ⟨-, -, ⟨fc, -, hs⟩ | ⟨i, hd, -⟩⟩ := hserves.step_cases
  · exact absurd hbad (not_shortOrCorrupt_of_valid h4 hv)
  · have he := takeException_excepts (capture_bufLength hb hserves.fits) .illegalDataValue
    exact ⟨_, hs, he, hserves.excepts_tx h4 he⟩
  · exact absurd (minLength_le_of_decode hd) (Nat.not_le_of_lt hmin)

end Sys2Proof.Machine
end

section
/-! R130 against the machine's own checks: on a frame with no reply, on one below its minimum, and on one that decodes
to a request. -/

namespace Sys2Proof.Machine

variable {s : State} {f : List Byte} {i : Instr} {inLen holdLen capacity : Nat}

theorem rule130_noReply (h : f.length < 4 ∨ verify f = false) : rule130 f inLen holdLen capacity = 255 := by
  unfold rule130
  by_cases h4 : f.length < 4
  · exact if_pos h4
  · exact (if_neg h4).trans (if_pos (h.resolve_left h4))

/-- The minimum lengths as R130 writes them, for a supported function. -/
theorem rule130_minimum {fc : Byte} (h : functionCodes.contains fc = true) :
    (if fc.toNat ∈ [1, 2, 3, 4, 5, 6] then 8 else if fc.toNat ∈ [15, 16] then 9
      else if fc.toNat = 17 then 4 else 12) = minLength fc := by
  revert fc; decide

theorem rule130_short (h4 : 4 ≤ f.length) (hv : verify f = true) (hfc : functionCodes.contains (byteAt f 1) = true)
    (hmin : f.length < minLength (byteAt f 1)) : rule130 f inLen holdLen capacity = 3 := by
  have hsupported : (byteAt f 1).toNat ∈ [1, 2, 3, 4, 5, 6, 15, 16, 17, 21] :=
    of_decide_eq_true ((contains_functionCodes _).symm.trans hfc)
  simp only [rule130, rule130_minimum hfc]
  rw [if_neg (Nat.not_lt_of_le h4), if_neg (by simp [hv]), if_neg (not_not_intro hsupported), if_pos hmin]

/-- What R130 returns for the outcome of the checks: 0 where none failed, else the exception code. -/
def resultCode : Option ExcCode → Nat
  | none => 0
  | some c => c.toByte.toNat

@[simp] theorem resultCode_none : resultCode none = 0 := rfl
@[simp] theorem resultCode_illegalFunction : resultCode (some .illegalFunction) = 1 := rfl
@[simp] theorem resultCode_illegalDataAddress : resultCode (some .illegalDataAddress) = 2 := rfl
@[simp] theorem resultCode_illegalDataValue : resultCode (some .illegalDataValue) = 3 := rfl

@[simp] theorem resultCode_ite (p : Prop) [Decidable p] (a b : Option ExcCode) :
    resultCode (if p then a else b) = if p then resultCode a else resultCode b :=
  apply_ite _ _ _ _

/-- A second check decides only where the first has passed. -/
@[simp] theorem ite_or_check (p : Prop) [Decidable p] (a b c : Option ExcCode) :
    (if p then a else b).or c = if p then a.or c else b.or c :=
  apply_ite (Option.or · c) _ _ _

/-- On a request, R130 returns the check that its meaning fails: the operands it reads from the frame are those of the
request, and its remaining lines are the checks of that function. -/
theorem rule130_of_decode (h4 : 4 ≤ f.length) (hv : verify f = true) (hd : decode f = .instr i) (s : State) :
    rule130 f s.map.inLen s.map.holdLen s.cfg.nvCapacity = resultCode (failedCheck i s) := by
  obtain ⟨hf, hillegal, hlen⟩ := decode_eq_instr hd
  have hfc := functionCode_of_decode hd
  rw [rule130, if_neg (Nat.not_lt_of_le h4), if_neg (by simp [hv]), hfc, ← hlen]
  cases i with
  | rdcoil start qty r | rddisc start qty r | rdhold start qty r | rdinp start qty r =>
    have hs : be16 f 2 = start := by rw [hf]; exact be_hi_lo start
    have hq : be16 f 4 = qty := by rw [hf]; exact be_hi_lo qty
    simp [hs, hq, Instr.requestLength, Instr.functionCode, failedCheck, checkBitRange_eq, checkEndAddress_eq]
  | wrcoil start onoff ig r =>
    have hs : be16 f 2 = start := by rw [hf]; exact be_hi_lo start
    have ho : byteAt f 4 = onoff := by rw [hf]; rfl
    simp [hs, ho, Instr.requestLength, Instr.functionCode, failedCheck, checkCoilWrite_eq]
  | wrreg start value r =>
    have hs : be16 f 2 = start := by rw [hf]; exact be_hi_lo start
    simp [hs, Instr.requestLength, Instr.functionCode, failedCheck, checkEndAddress_eq]
  | wrmcoil start qty b data =>
    have hs : be16 f 2 = start := by rw [hf]; exact be_hi_lo start
    have hq : be16 f 4 = qty := by rw [hf]; exact be_hi_lo qty
    simp [hs, hq, Instr.requestLength, Instr.functionCode, failedCheck, checkBitRange_eq, checkDataLength_ceilDiv8]
  | wrmreg start qty b data =>
    have hs : be16 f 2 = start := by rw [hf]; exact be_hi_lo start
    have hq : be16 f 4 = qty := by rw [hf]; exact be_hi_lo qty
    have hlow : (byteAt f 5).toNat = qty.toNat % 256 := by rw [hf]; exact BitVec.toNat_setWidth 8 qty
    simp [hs, hq, hlow, Instr.requestLength, Instr.functionCode, failedCheck, checkEndAddress_eq, wordCount_eq,
      checkDataLength]
  | rptid r => simp [Instr.requestLength, Instr.functionCode, failedCheck]
  | wrfile dlen reftype fileno recno reclen data =>
    have ht : byteAt f 3 = reftype := by rw [hf]; rfl
    have hn : be16 f 4 = fileno := by rw [hf]; exact be_hi_lo fileno
    have hr : be16 f 6 = recno := by rw [hf]; exact be_hi_lo recno
    have hl : be16 f 8 = reclen := by rw [hf]; exact be_hi_lo reclen
    simp [ht, hn, hr, hl, Instr.requestLength, Instr.functionCode, failedCheck, checkFileRange_eq,
      checkDataLength_doubled]
  | illegal fc p =>
    have hunsupported : functionCodes.contains fc = false := by simpa [Instr.illegalIsIllegal] using hillegal
    rw [contains_functionCodes] at hunsupported
    exact if_pos (of_decide_eq_false hunsupported)

/-- Settles O18: on a frame that R130 gives no reply or finds too short the step never reaches a meaning, and a meaning
ends as its checks say. -/
theorem stepFollowsTheWholeValidator : Obligations.StepFollowsTheWholeValidator := by
  unfold Obligations.StepFollowsTheWholeValidator
  intro s hb hserves
  have hcb : s.capture.buf.length = maxFrame := capture_bufLength hb hserves.fits
  obtain ⟨hbad, hs⟩ | ⟨h4, hv, ⟨fc, hd, hs⟩ | ⟨i, hd, hs⟩⟩ := hserves.step_cases
  · exact ⟨_, hs, .inl ⟨rule130_noReply hbad, rfl⟩⟩
  · obtain ⟨hfc, hmin⟩ := short_of_decode hd
    exact ⟨_, hs, .inr (.inr (.inr (.inl ⟨rule130_short h4 hv hfc hmin, takeException_excepts hcb _⟩)))⟩
  · have hrule := rule130_of_decode h4 hv hd s.capture
    rw [capture_map, capture_cfg] at hrule
    rw [hrule, hs]
    cases hc : failedCheck i s.capture with
    | none =>
      obtain ⟨t, hexec, hends⟩ := exec_of_passed hc
      exact ⟨t, hexec, .inr (.inr (.inr (.inr ⟨rfl, hends⟩)))⟩
    | some c =>
      obtain ⟨t, hexec, hexcepts⟩ := exec_excepts hcb hc
      refine ⟨t, hexec, ?_⟩
      cases c with
      | illegalFunction => exact .inr (.inl ⟨rfl, hexcepts⟩)
      | illegalDataAddress => exact .inr (.inr (.inl ⟨rfl, hexcepts⟩))
      | illegalDataValue => exact .inr (.inr (.inr (.inl ⟨rfl, hexcepts⟩)))

end Sys2Proof.Machine
end

section
/-! The frames that the spec writes out (43_bit_functions.md to 45_slave_id_and_file_record.md, 60_exceptions.md): each
is the encoding of the request it stands for. -/

namespace Sys2Proof

open Machine

/-- The frame that a well-formed request encodes to decodes to that request. -/
theorem decode_of_encode_eq {f : List Byte} {i : Instr} (h : i.wellFormed = true ∧ encode (byteAt f 0) i = f) :
    decode f = .instr i := by
  obtain ⟨hwf, hf⟩ := h
  rw [← decodeOfEncodeReturnsTheRequest (byteAt f 0) i hwf, hf]

/-- Settles O3: each frame is its request encoded, and decoding undoes that. -/
theorem framesOfTheSpecDecodeAsWritten : Obligations.FramesOfTheSpecDecodeAsWritten := by
  unfold Obligations.FramesOfTheSpecDecodeAsWritten
  refine ⟨decode_of_encode_eq ?_, decode_of_encode_eq ?_, decode_of_encode_eq ?_, decode_of_encode_eq ?_,
    decode_of_encode_eq ?_, decode_of_encode_eq ?_, decode_of_encode_eq ?_, decode_of_encode_eq ?_,
    decode_of_encode_eq ?_⟩ <;> decide +kernel

end Sys2Proof
end

section
/-! Answers of the bit functions (43_bit_functions.md): with the checks passed, what is answered and what the coil word
then holds. -/

namespace Sys2Proof.Machine

variable {start qty : Word}

theorem checkBitRange_within (hq : qty.toNat ≤ 16) (hs : start.toNat ≤ 15) (hend : start.toNat + qty.toNat ≤ 16) :
    checkBitRange start qty = none := by
  rw [checkBitRange_eq, if_neg (by omega), if_neg (by omega)]

theorem checkCoilWrite_within {onoff : Byte} (hmarker : onoff = 0x00 ∨ onoff = 0xFF) (hs : start.toNat ≤ 15) :
    checkCoilWrite start onoff = none := by
  rw [checkCoilWrite_eq, if_neg (by tauto), if_neg (by omega)]

theorem checkDataLength_present {present needed : Nat} (h : needed ≤ present) :
    checkDataLength present needed = none :=
  if_neg (Nat.not_lt_of_le h)

/-- A bit read within the 16 positions runs the handler body on its word (R161, R162). -/
theorem exec_bitRead {s : State} {surplus : List Byte} {i : Instr} {fc : Byte} {w : Word}
    (hi : i = .rdcoil start qty surplus ∧ fc = 1 ∧ w = s.map.co ∨
      i = .rddisc start qty surplus ∧ fc = 2 ∧ w = s.map.di)
    (hrange : checkBitRange start qty = none) : exec i s = .next (readBits fc w start qty s.armWatchdog) := by
  obtain ⟨rfl, rfl, rfl⟩ | ⟨rfl, rfl, rfl⟩ := hi
  · simp only [exec, execRdcoil, hrange]
  · simp only [exec, execRddisc, hrange]

/-- Settles O20: the response is the packed bits, and bit `k` of them is element `start + k`. -/
theorem bitReadsAnswerThePackedBits : Obligations.BitReadsAnswerThePackedBits := by
  unfold Obligations.BitReadsAnswerThePackedBits
  intro s start qty surplus i fc w hb hq hs hend hi
  have hanswers := readBits_answers hb fc w start hq
  rw [take_two (by omega)] at hanswers
  refine ⟨packBits w start.toNat qty.toNat, _, exec_bitRead hi (checkBitRange_within hq hs hend), hanswers,
    length_packBits _ _ _, fun k hk => getLsbD_packBits _ _ _ ?_⟩
  rwa [length_packBits] at hk

/-- Settles O21: the word stored is the coil word with one bit written. -/
theorem coilWriteWritesOneCoil : Obligations.CoilWriteWritesOneCoil := by
  unfold Obligations.CoilWriteWritesOneCoil
  intro s start onoff ignored surplus hb hmarker hs
  have hc := checkCoilWrite_within hmarker hs
  refine ⟨setBit s.map.co start.toNat (onoff == 0xFF), _, by simp only [exec, execWrcoil, hc],
    setCo_answers hb _ 5 start.toNat 1, fun k _ => ?_⟩
  rw [getLsbD_setBit _ (by omega)]
  rfl

/-- Settles O22: the word stored is the coil word with the data bits written into the range. -/
theorem multipleCoilWriteUnpacksTheData : Obligations.MultipleCoilWriteUnpacksTheData := by
  unfold Obligations.MultipleCoilWriteUnpacksTheData
  intro s start qty bytecnt data hb hq hs hend hdata
  have hc : (checkBitRange start qty).or (checkDataLength data.length (ceilDiv8 qty.toNat)) = none :=
    Option.or_eq_none_iff.2 ⟨checkBitRange_within hq hs hend, checkDataLength_present hdata⟩
  exact ⟨writeCoils s.map.co start.toNat qty.toNat data, _, by simp only [exec, execWrmcoil, hc],
    setCo_answers hb _ 15 start.toNat qty.toNat, fun j _ => getLsbD_writeCoils _ hend data j⟩

end Sys2Proof.Machine
end

section
/-! Answers of the register functions (44_register_functions.md): with the checks passed, what a read answers, and what
the holding registers hold after a write. -/

namespace Sys2Proof.Machine

variable {s : State} {start qty : Word} {surplus : List Byte} {i : Instr} {fc : Byte} {arr : List Word} {len : Nat}

/-- A register read accepted by the range check runs the handler body on its array (R183, R184). -/
theorem exec_registerRead
    (hi : i = .rdhold start qty surplus ∧ fc = 3 ∧ arr = s.map.hr ∧ len = s.map.holdLen ∨
      i = .rdinp start qty surplus ∧ fc = 4 ∧ arr = s.map.ir ∧ len = s.map.inLen)
    (hend : (start.toNat + qty.toNat) % 256 ≤ len) :
    exec i s = .next (readRegisters fc arr len start qty s.armWatchdog) := by
  have hc := checkEndAddress_within hend
  obtain ⟨rfl, rfl, rfl, rfl⟩ | ⟨rfl, rfl, rfl, rfl⟩ := hi
  · simp only [exec, execRdhold, hc]
  · simp only [exec, execRdinp, hc]

/-- A read of 68 or more registers is dropped after the watchdog was armed (R110, R182). -/
theorem exec_longRegisterRead
    (hi : i = .rdhold start qty surplus ∧ fc = 3 ∧ arr = s.map.hr ∧ len = s.map.holdLen ∨
      i = .rdinp start qty surplus ∧ fc = 4 ∧ arr = s.map.ir ∧ len = s.map.inLen)
    (hq : 68 ≤ qty.toNat) (hend : (start.toNat + qty.toNat) % 256 ≤ len) :
    exec i s = .next (s.armWatchdog.dropped .respOverflow) := by
  rw [exec_registerRead hi hend, readRegisters_overflow fc arr len start hq]

/-- Word `k` on the wire is element `start + k`, or a free word at or beyond the declared count (R181 b, R183); an
element below a declared count that fits the array always exists. -/
theorem be16_readWords (start free : Nat) {n k : Nat} (hlen : len ≤ arr.length) (hk : k < n) :
    be16 (wordBytes (readWords arr len start n free)) (2 * k) =
      if start + k < len then arr.getD (start + k) 0 else Config.freeWord (free + k) := by
  rw [be16_wordBytes _ (getElem?_readWords arr len start free hk), readRegister]
  by_cases hbelow : start + k < len
  · have hget := List.getElem?_eq_getElem (Nat.lt_of_lt_of_le hbelow hlen)
    simp only [if_pos hbelow, List.getD_eq_getElem?_getD, hget, Option.getD_some]
  · simp only [if_neg hbelow]

/-- Settles O23: the response is the words read, and each of them is read back from its two bytes. -/
theorem registerReadsAnswerTheWords : Obligations.RegisterReadsAnswerTheWords := by
  unfold Obligations.RegisterReadsAnswerTheWords
  intro s start qty surplus i fc arr len hb hi hlen hend hq
  have hanswers := readRegisters_answers hb fc arr len start hq
  rw [take_two (by omega)] at hanswers
  refine ⟨wordBytes (readWords arr len start.toNat qty.toNat s.freeIdx), _, exec_registerRead hi hend, hanswers, ?_,
    fun k hk => be16_readWords start.toNat s.freeIdx hlen hk⟩
  rw [length_wordBytes, length_readWords]

/-- Settles O24: the handler body drops the frame before it reads a word. -/
theorem longRegisterReadOverflowsTheResponse : Obligations.LongRegisterReadOverflowsTheResponse := by
  unfold Obligations.LongRegisterReadOverflowsTheResponse
  intro s start qty surplus hq
  exact ⟨exec_longRegisterRead (.inl ⟨rfl, rfl, rfl, rfl⟩) hq, exec_longRegisterRead (.inr ⟨rfl, rfl, rfl, rfl⟩) hq⟩

/-- Settles O25: the registers stored are the old ones with one write, which the declared count may suppress. -/
theorem registerWriteWritesOneRegister : Obligations.RegisterWriteWritesOneRegister := by
  unfold Obligations.RegisterWriteWritesOneRegister
  intro s start value surplus hb hlen hend
  have hc := checkEndAddress_within hend
  refine ⟨writeRegister s.map.hr s.map.holdLen start.toNat value, _, by simp only [exec, execWrreg, hc],
    setHr_answers hb _ 6 start.toNat 1, length_writeRegister _ _ _ _, fun j => ?_⟩
  have hwritten : (j = start.toNat ∧ start.toNat < s.map.holdLen ∧ start.toNat < s.map.hr.length) ↔
      (j = start.toNat ∧ j < s.map.holdLen) := by omega
  simp only [getElem?_writeRegister, hwritten]

/-- Settles O26: the registers stored are the old ones after the run of `wordCount qty` writes, of which those below the
declared count take place. -/
theorem multipleRegisterWriteIsClamped : Obligations.MultipleRegisterWriteIsClamped := by
  unfold Obligations.MultipleRegisterWriteIsClamped
  intro s start qty bytecnt data nw hb hlen hend hnw hdata
  obtain rfl : nw = wordCount qty := hnw.trans (wordCount_eq qty).symm
  have hc : (checkEndAddress s.map.holdLen start.toNat qty.toNat).or
      (checkDataLength data.length (2 * wordCount qty)) = none :=
    Option.or_eq_none_iff.2 ⟨checkEndAddress_within hend, checkDataLength_present hdata⟩
  rw [← wordsWritten_eq]
  refine ⟨writeWords s.map.hr s.map.holdLen start.toNat (wordCount qty) data, _, by simp only [exec, execWrmreg, hc],
    setHr_answers hb _ 16 start.toNat _, length_writeWords _ _ _ _ _, fun j => ?_⟩
  have hwritten : (start.toNat ≤ j ∧ j < start.toNat + wordCount qty ∧ j < s.map.holdLen ∧ j < s.map.hr.length) ↔
      (start.toNat ≤ j ∧ j < start.toNat + wordCount qty ∧ j < s.map.holdLen) := by omega
  simp only [getElem?_writeWords, hwritten]

end Sys2Proof.Machine
end

section
/-! Answers of RPTID and WRFILE (45_slave_id_and_file_record.md): what RPTID answers, and what the store reads as
after a WRFILE whose checks passed. -/

namespace Sys2Proof.Machine

/-- Settles O27: the body written over the request after its first two bytes is the identification and its trailer. -/
theorem reportSlaveIdAnswersTheIdentification : Obligations.ReportSlaveIdAnswersTheIdentification := by
  unfold Obligations.ReportSlaveIdAnswersTheIdentification
  intro s surplus hb
  rw [List.append_assoc, ← take_two (by omega)]
  exact execRptid_answers hb surplus

/-- The store after the loop of R206, in terms of the data bytes of the frame: the frame holds every byte that the loop
copies, so none of them is a default of `byteAt` (R147). -/
theorem Memory.read_writeBytes_take (m : Memory) (a : Nat) {data : List Byte} {n : Nat} (h : n ≤ data.length)
    (x : Nat) : (m.writeBytes a (data.take n)).read x =
      if a ≤ x ∧ x < a + n then some (byteAt data (x - a)) else m.read x := by
  rw [Memory.read_writeBytes, List.length_take_of_le h]
  by_cases hx : a ≤ x ∧ x < a + n
  · have hk : x - a < n := by omega
    have hget : data[x - a]? = some data[x - a] := List.getElem?_eq_getElem (by omega)
    rw [if_pos hx, if_pos hx, List.getElem?_take_of_lt hk, byteAt, List.getD_eq_getElem?_getD, hget, Option.getD_some]
  · rw [if_neg hx, if_neg hx]

/-- Settles O28: the store after the request is the old one after one run of writes of the announced bytes. -/
theorem fileRecordWriteCopiesTheData : Obligations.FileRecordWriteCopiesTheData := by
  unfold Obligations.FileRecordWriteCopiesTheData
  intro s dlen recno reclen data hb hwf hrange hdata
  have hc : (checkFileRange s.cfg.nvCapacity 6 1 recno reclen).or
      (checkDataLength data.length (doubled reclen)) = none :=
    Option.or_eq_none_iff.2 ⟨checkFileRange_within rfl rfl hrange, checkDataLength_present hdata⟩
  exact ⟨s.nv.writeBytes (doubled recno) (data.take (doubled reclen)), _, by simp only [exec, execWrfile, hc],
    setNv_answers hb _ 21 (doubled recno) (doubled reclen), Memory.wf_writeBytes hwf _ _,
    Memory.read_writeBytes_take s.nv (doubled recno) hdata⟩

end Sys2Proof.Machine
end

section
/-! The ResponseBuilder (46_response_builder.md R216 to R220): the exception head written over the request, the
checksum appended, and what a Poll sends. -/

namespace Sys2Proof.Machine

variable {s t : State}

/-! ## The parts of the builder -/

/-- Bytes above those written are kept. -/
theorem drop_overwrite {f bs : List Byte} {i : Nat} (h : i ≤ f.length) :
    (overwrite f i bs).drop (i + bs.length) = f.drop (i + bs.length) := by
  have hwritten : (f.take i ++ bs).length = i + bs.length := by
    rw [List.length_append, List.length_take_of_le h]
  rw [overwrite, ← hwritten, List.drop_left]

/-- The code byte on the wire, by the kind of exception (R232). -/
theorem ExcCode.toByte_cases (c : ExcCode) : c = .illegalFunction ∧ c.toByte = 1 ∨
    c = .illegalDataAddress ∧ c.toByte = 2 ∨ c = .illegalDataValue ∧ c.toByte = 3 := by
  cases c with
  | illegalFunction => exact .inl ⟨rfl, rfl⟩
  | illegalDataAddress => exact .inr (.inl ⟨rfl, rfl⟩)
  | illegalDataValue => exact .inr (.inr ⟨rfl, rfl⟩)

/-- A function byte that has bit 7 set stays as it is in the exception frame (R216). -/
theorem or_0x80_of_getLsbD {b : Byte} (h : b.getLsbD 7 = true) : b ||| 0x80 = b := by
  rw [show (0x80 : Byte) = BitVec.twoPow 8 7 from rfl]
  refine BitVec.eq_of_getLsbD_eq fun j _ => ?_
  rw [BitVec.getLsbD_or, BitVec.getLsbD_twoPow]
  by_cases hj : j = 7
  · rw [hj, h, Bool.true_or]
  · rw [decide_eq_false (Ne.symm hj), Bool.and_false, Bool.or_false]

/-- `Send()` in one piece (R218, R219). -/
theorem send_eq (h : s.frameLen ≤ s.buf.length) : s.send = { s with
    buf := overwrite s.buf s.frameLen (checksumBytes s.frame), frameLen := 0, txCnt := s.txCnt + 1
    tx := s.tx ++ [withChecksum s.frame] } := by
  rw [← send_tx_frame h]
  rfl

/-- Settles O35: two bytes are written from index 1 on, between the address byte and what follows the head. -/
theorem buildExceptionRewritesTheHead : Obligations.BuildExceptionRewritesTheHead := by
  unfold Obligations.BuildExceptionRewritesTheHead
  intro s c hb
  have hone : 1 ≤ s.buf.length := by omega
  have hfits : 1 + [byteAt s.buf 1 ||| 0x80, c.toByte].length ≤ s.buf.length := by
    rw [List.length_cons, List.length_singleton]; omega
  have hhead := take_overwrite (bs := [byteAt s.buf 1 ||| 0x80, c.toByte]) hone
  rw [take_one hone] at hhead
  have htail := drop_overwrite (bs := [byteAt s.buf 1 ||| 0x80, c.toByte]) hone
  exact ⟨_, (length_overwrite hfits).trans hb, hhead, htail, rfl, c.toByte_cases⟩

/-- Settles O36: the two checksum bytes still fit the RawFrame, and what is handed over ends with them. -/
theorem sendHandsOverTheWholeFrame : Obligations.SendHandsOverTheWholeFrame := by
  unfold Obligations.SendHandsOverTheWholeFrame
  intro s hb hfits
  have hbody : s.frameLen ≤ s.buf.length := by omega
  have hroom : s.frameLen + (checksumBytes s.frame).length ≤ s.buf.length := by rw [length_checksumBytes]; omega
  exact ⟨_, (length_overwrite hroom).trans hb, take_overwrite (bs := checksumBytes s.frame) hbody, send_eq hbody⟩

/-- Settles O37: the exception in one piece, whose frame has a body of three bytes. -/
theorem takingAnExceptionSendsFiveBytes : Obligations.TakingAnExceptionSendsFiveBytes := by
  unfold Obligations.TakingAnExceptionSendsFiveBytes
  intro s c hb
  have he : s.Excepts c (s.takeException c) := takeException_excepts hb c
  have ⟨b, _, ht⟩ := he
  exact ⟨he, congrArg State.tx ht, length_withChecksum _, or_0x80_of_getLsbD⟩

/-! ## What a Poll sends -/

/-- From `s` to `t` one frame was sent and the outcome is an exception, with 5 bytes, or `Done` with its length; or
nothing was sent and the outcome is neither (R220, R40). -/
def SendsAsReported (s t : State) : Prop :=
  (∃ f, t.tx = s.tx ++ [f] ∧ ((∃ c, t.outcome = some (.exception c) ∧ f.length = 5) ∨
    t.outcome = some (.done f.length))) ∨
  (t.tx = s.tx ∧ (∀ c, t.outcome ≠ some (.exception c)) ∧ ∀ m, t.outcome ≠ some (.done m))

theorem SendsAsReported.of_silent {o : PollOutcome} (htx : t.tx = s.tx) (ho : t.outcome = some o)
    (hc : ∀ c, o ≠ .exception c) (hm : ∀ m, o ≠ .done m) : SendsAsReported s t :=
  .inr ⟨htx,
    fun c h => hc c (Option.some.inj (ho.symm.trans h)),
    fun m h => hm m (Option.some.inj (ho.symm.trans h))⟩

theorem Ends.sendsAsReported (h : Ends s t) : SendsAsReported s t := by
  cases h with
  | exception c h =>
    obtain ⟨b, -, rfl⟩ := h
    exact .inl ⟨_, rfl, .inl ⟨c, rfl, length_withChecksum _⟩⟩
  | overflow h => subst h; exact .of_silent rfl rfl (by simp) (by simp)
  | answer body cmd co hr nv free head atLeast atMost hrLength hrAbove nvWf nvBelow nvAbove h =>
    obtain ⟨b, -, -, rfl⟩ := h
    refine .inl ⟨withChecksum body, rfl, .inr ?_⟩
    rw [length_withChecksum]
    rfl

theorem Waits.sendsAsReported (h : Waits s t) : SendsAsReported s.polled t := by
  cases h with
  | unchanged o ho h => subst h; obtain rfl | rfl := ho <;> exact .of_silent rfl rfl (by simp) (by simp)
  | recorded h => subst h; exact .of_silent rfl rfl (by simp) (by simp)

theorem DrainEnds.sendsAsReported (h : DrainEnds s t) : SendsAsReported s.polled t := by
  cases h with
  | overflowed long h => subst h; exact .of_silent rfl rfl (by simp) (by simp)
  | notAddressed other h => subst h; exact .of_silent rfl rfl (by simp) (by simp)
  | noReply bad h => subst h; exact .of_silent rfl rfl (by simp) (by simp)
  | served fits addressed atLeast valid h => exact h.sendsAsReported

/-- Settles O51: each way a Poll can go sends as it reports, and the inputs of the Poll send nothing. -/
theorem oneFrameIsSentPerAnsweredPoll : Obligations.OneFrameIsSentPerAnsweredPoll := by
  unfold Obligations.OneFrameIsSentPerAnsweredPoll
  intro s t hb hstep
  have hsends : SendsAsReported s.polled t :=
    (step_inversion hb hstep).elim Waits.sendsAsReported fun h => h.2.sendsAsReported
  rwa [SendsAsReported, polled_tx] at hsends

end Sys2Proof.Machine
end

section
/-! What a Poll starts with (70_reset_and_hazards.md R260 to R263): R43's zeros after a power-up, the state as it stands
otherwise, and the first Poll of an assembler that has counted nothing. -/

namespace Sys2Proof.Machine

variable {s t : State} {p : PollInput}

theorem applyInput_of_powerUp (h : p.powerUp = true) :
    s.applyInput p =
      { s.powerUp with now := p.now, rxq := s.rxq ++ p.arrived, map := p.map.getD s.map } := by
  rw [State.applyInput, h]
  rfl

theorem applyInput_of_not_powerUp (h : p.powerUp = false) :
    s.applyInput p = { s with now := p.now, rxq := s.rxq ++ p.arrived, map := p.map.getD s.map } := by
  rw [State.applyInput, h]
  rfl

/-- Settles O57: the inputs of the Poll go into the state as it stands, or into the one a power-up leaves. -/
theorem onlyPowerUpResetsTheEngine : Obligations.OnlyPowerUpResetsTheEngine := by
  unfold Obligations.OnlyPowerUpResetsTheEngine
  intro s
  refine ⟨polled_nil, fun p rest hsched => ⟨fun hp => ?_, fun hp => ?_⟩⟩
  · rw [polled_cons hsched, applyInput_of_not_powerUp hp]
  · refine ⟨Config.frameBytes s.freeIdx, length_frameBytes _, ?_⟩
    rw [polled_cons hsched, applyInput_of_powerUp hp]
    rfl

/-- The engine state that R43 gives a power-up, the deadlines apart. -/
structure State.PoweredUp (s : State) : Prop where
  frameLen : s.frameLen = 0
  lastCount : s.lastCount = 0
  rxCnt : s.rxCnt = 0
  txCnt : s.txCnt = 0
  errCnt : s.errCnt = 0
  cmd : s.cmd = ⟨0, 0, 0⟩

theorem polled_poweredUp (h : s.powersUp = true) : s.polled.PoweredUp := by
  rw [polled_of_powersUp h]
  constructor <;> rfl

/-- A Poll starts with the counters and `cmd` as they stood, unless power was cycled (R260). -/
theorem polled_counters (s : State) : KeepsCounters s s.polled ∨ s.polled.PoweredUp := by
  cases h : s.powersUp with
  | false =>
    left
    rw [polled_of_not_powersUp h]
    constructor <;> rfl
  | true => exact .inr (polled_poweredUp h)

/-- An idle assembler never drains: any byte in the queue is a change of the count (R102, R103, R261). -/
theorem step_of_idle (hc : s.Configured) (hidle : s.polled.lastCount = 0) :
    (s.polled.rxq = [] ∧ step s = .next ((s.polled.enqueue s.lateBytes).report .noFrame)) ∨
    (s.ObservesChange ∧ step s = .next ((s.polled.recordCount.enqueue s.lateBytes).report .pending)) := by
  by_cases hq : s.polled.rxq = []
  · exact .inl ⟨hq, step_noFrame hc hq⟩
  · have hs : s.ObservesChange := ⟨hc, hq, by rw [hidle]; exact mt List.eq_nil_of_length_eq_zero hq⟩
    exact .inr ⟨hs, step_changed hs⟩

/-- Settles O58: after a power-up the assembler is idle, and either Poll of an idle one writes neither the store, the
map, the counters nor `cmd`. -/
theorem firstPollAfterPowerUp : Obligations.FirstPollAfterPowerUp := by
  unfold Obligations.FirstPollAfterPowerUp
  intro s hup hc
  have hnv : s.polled.nv = s.nv := polled_nv s
  have hkept : s.rxq.IsPrefix (s.polled.rxq ++ s.lateBytes) := (prefix_polled_rxq s).trans (List.prefix_append _ _)
  obtain ⟨hlen, hcount, hrx, htx, herr, hcmd⟩ := polled_poweredUp hup
  obtain ⟨hq, hstep⟩ | ⟨hs, hstep⟩ := step_of_idle hc hcount
  · exact ⟨_, hstep, fun a => congrArg (Memory.read · a) hnv, hnv, rfl, polled_tx s, hrx, htx, herr, hcmd, hlen, hkept,
      fun _ => ⟨rfl, hcount⟩, fun hne => absurd hq hne⟩
  · exact ⟨_, hstep, fun a => congrArg (Memory.read · a) hnv, hnv, rfl, polled_tx s, hrx, htx, herr, hcmd, hlen, hkept,
      fun hq => absurd hq hs.waiting, fun _ => ⟨rfl, rfl, rfl⟩⟩

/-! ## The deadline of an idle assembler (R262) -/

/-- The state `s` with another deadline of the silence detection. -/
def State.withDeadline (d : Time) (s : State) : State := { s with deadline := d }

/-- The inputs of a Poll read nothing of the deadline; a power-up before it clears it (R43). -/
theorem polled_withDeadline (s : State) (d : Time) : ∃ d', (s.withDeadline d).polled = s.polled.withDeadline d' := by
  cases hsched : s.schedule with
  | nil => exact ⟨d, by rw [polled_nil hsched, polled_nil (s := s.withDeadline d) hsched]⟩
  | cons p rest =>
    rw [polled_cons hsched, polled_cons (s := s.withDeadline d) hsched]
    cases hp : p.powerUp with
    | true => exact ⟨0, by rw [applyInput_of_powerUp hp, applyInput_of_powerUp hp]; rfl⟩
    | false => exact ⟨d, by rw [applyInput_of_not_powerUp hp, applyInput_of_not_powerUp hp]; rfl⟩

theorem lateBytes_withDeadline (s : State) (d : Time) : (s.withDeadline d).lateBytes = s.lateBytes := by
  cases hsched : s.schedule <;> simp [State.lateBytes, State.beginPoll, State.withDeadline, hsched]

/-- Settles O55: an idle assembler stays idle, or it records a count and with it a new deadline. -/
theorem deadlineOfAnIdleAssemblerNeverMatters : Obligations.DeadlineOfAnIdleAssemblerNeverMatters := by
  unfold Obligations.DeadlineOfAnIdleAssemblerNeverMatters
  intro s t d hidle hstep
  obtain ⟨d', hpolled⟩ := polled_withDeadline s d
  have hcount : s.polled.lastCount = 0 := (polled_count s).elim (fun h => h.1.trans hidle) id
  have hc : s.Configured := configured_of_step hstep
  have hc' : (s.withDeadline d).Configured := by rw [State.Configured, hpolled]; exact hc
  obtain ⟨hq, h⟩ | ⟨hs, h⟩ := step_of_idle hc hcount
  · obtain rfl : t = _ := Host.Outcome.next.inj (hstep.symm.trans h)
    have hq' : (s.withDeadline d).polled.rxq = [] := by rw [hpolled]; exact hq
    refine ⟨d', (step_noFrame hc' hq').trans ?_, fun hne => absurd hcount hne⟩
    rw [hpolled, lateBytes_withDeadline]
    rfl
  · obtain rfl : t = _ := Host.Outcome.next.inj (hstep.symm.trans h)
    have hs' : (s.withDeadline d).ObservesChange :=
      ⟨hc', by rw [hpolled]; exact hs.waiting, by rw [hpolled]; exact hs.changed⟩
    refine ⟨_, (step_changed hs').trans ?_, fun _ => rfl⟩
    rw [hpolled, lateBytes_withDeadline]
    rfl

end Sys2Proof.Machine
end

section
/-! What a step refuses (70_reset_and_hazards.md R273): a misconfigured device and nothing else, since every Poll ends in
a next state (R46). -/

namespace Sys2Proof.Machine

variable {s : State} {r : Refusal}

theorem exec_next (i : Instr) (s : State) : ∃ t, exec i s = .next t := by
  cases exec_form i s with
  | exception c failed h => exact ⟨_, h s.buf⟩
  | overflow passed h => exact ⟨_, h s.buf⟩
  | answer passed bs fc addr count atMost h => exact ⟨_, h s.buf⟩

theorem serve_next (s : State) : ∃ t, serve s = .next t := by
  obtain ⟨-, hs⟩ | ⟨-, -, hs⟩ | ⟨-, -, -, ⟨fc, -, hs⟩ | ⟨i, -, hs⟩⟩ := serve_cases s
  · exact ⟨_, hs⟩
  · exact ⟨_, hs⟩
  · exact ⟨_, hs⟩
  · rw [hs]; exact exec_next i s

theorem step_next (hc : s.Configured) : ∃ t, step s = .next t := by
  obtain ⟨r, hr, -⟩ | ⟨-, -, h⟩ | ⟨-, h⟩ | ⟨-, -, -, -, h⟩ | ⟨-, -, h⟩ | ⟨-, -, h⟩ := step_cases s
  · exact absurd (hr.symm.trans hc) (by simp)
  · exact ⟨_, h⟩
  · exact ⟨_, h⟩
  · exact ⟨_, h⟩
  · exact ⟨_, h⟩
  · rw [h]; exact serve_next s.capture

theorem step_refused_iff : step s = .refused r ↔ s.polled.misconfigured = some r := by
  refine ⟨fun h => ?_, step_misconfigured⟩
  cases hm : s.polled.misconfigured with
  | none =>
    obtain ⟨t, ht⟩ := step_next hm
    cases h.symm.trans ht
  | some r' =>
    cases h.symm.trans (step_misconfigured hm)
    rfl

/-- With SLAVE_ID in its range, the declared counts alone decide (R11, R273). -/
theorem misconfigured_iff_of_slaveId_inRange (h1 : 1 ≤ s.slaveId.toNat) (h247 : s.slaveId.toNat ≤ 247) :
    s.misconfigured = some r ↔ r = .declaredCountOutOfRange ∧
      (255 < s.map.inLen ∨ 255 < s.map.holdLen ∨ s.map.ir.length < s.map.inLen ∨
        s.map.hr.length < s.map.holdLen) := by
  rw [State.misconfigured, if_neg (by omega)]
  split
  next h => simp [h, eq_comm]
  next h => simp [h]

/-- Settles O47: a step refuses what the configuration is refused for, and that is a declared count. -/
theorem declaredCountsOutsideTheirRangeAreRefused : Obligations.DeclaredCountsOutsideTheirRangeAreRefused := by
  unfold Obligations.DeclaredCountsOutsideTheirRangeAreRefused
  intro s h1 h247
  rw [← polled_slaveId s] at h1 h247
  have hrefused := fun r => step_refused_iff.trans (misconfigured_iff_of_slaveId_inRange (r := r) h1 h247)
  exact ⟨(hrefused _).trans (and_iff_right rfl), fun r h => ((hrefused r).1 h).1⟩

end Sys2Proof.Machine
end

section
/-! The transaction counters (60_exceptions.md R236): the outcome of a Poll says which of the three it counted, and never
an answer or an error without a received frame. -/

namespace Sys2Proof.Machine

variable {s t : State}

/-- `rx_cnt` after a Poll with this outcome (R236). -/
def PollOutcome.rxAfter : PollOutcome → BitVec 16 → BitVec 16
  | .noFrame, c => c
  | .pending, c => c
  | _, c => c + 1

/-- `tx_cnt` after a Poll with this outcome (R236). -/
def PollOutcome.txAfter : PollOutcome → BitVec 16 → BitVec 16
  | .exception _, c => c + 1
  | .done _, c => c + 1
  | _, c => c

/-- `err_cnt` after a Poll with this outcome (R236). -/
def PollOutcome.errAfter : PollOutcome → BitVec 16 → BitVec 16
  | .captureOverflow, c => c + 1
  | .noReply, c => c + 1
  | .exception _, c => c + 1
  | .respOverflow, c => c + 1
  | _, c => c

/-- `t` reports `o`, its counters are those of `s` after that outcome, and without `Done` the command record, the register
map and the store are those of `s` (R221, R236, R237). -/
structure AccountsFor (s t : State) (o : PollOutcome) : Prop where
  outcome : t.outcome = some o
  rxCnt : t.rxCnt = o.rxAfter s.rxCnt
  txCnt : t.txCnt = o.txAfter s.txCnt
  errCnt : t.errCnt = o.errAfter s.errCnt
  kept : (∀ m, o ≠ .done m) → t.cmd = s.cmd ∧ t.map = s.map ∧ t.nv = s.nv

theorem Waits.accountsFor (h : Waits s t) : ∃ o, AccountsFor s.polled t o := by
  cases h with
  | unchanged o ho h =>
    subst h
    obtain rfl | rfl := ho <;> exact ⟨_, rfl, rfl, rfl, rfl, fun _ => ⟨rfl, rfl, rfl⟩⟩
  | recorded h => subst h; exact ⟨_, rfl, rfl, rfl, rfl, fun _ => ⟨rfl, rfl, rfl⟩⟩

/-- The drain counted the frame before its request was served (R105). -/
theorem Ends.accountsFor (h : Ends s.capture t) : ∃ o, AccountsFor s.polled t o := by
  cases h with
  | exception c h =>
    obtain ⟨b, -, rfl⟩ := h
    exact ⟨_, rfl, rfl, rfl, rfl, fun _ => ⟨rfl, rfl, rfl⟩⟩
  | overflow h => subst h; exact ⟨_, rfl, rfl, rfl, rfl, fun _ => ⟨rfl, rfl, rfl⟩⟩
  | answer body cmd co hr nv free head atLeast atMost hrLength hrAbove nvWf nvBelow nvAbove h =>
    obtain ⟨b, -, -, rfl⟩ := h
    exact ⟨_, rfl, rfl, rfl, rfl, fun hne => absurd rfl (hne _)⟩

theorem DrainEnds.accountsFor (h : DrainEnds s t) : ∃ o, AccountsFor s.polled t o := by
  cases h with
  | overflowed long h => subst h; exact ⟨_, rfl, rfl, rfl, rfl, fun _ => ⟨rfl, rfl, rfl⟩⟩
  | notAddressed other h => subst h; exact ⟨_, rfl, rfl, rfl, rfl, fun _ => ⟨rfl, rfl, rfl⟩⟩
  | noReply bad h => subst h; exact ⟨_, rfl, rfl, rfl, rfl, fun _ => ⟨rfl, rfl, rfl⟩⟩
  | served fits addressed atLeast valid h => exact h.accountsFor

theorem step_accountsFor (hb : s.buf.length = maxFrame) (h : step s = .next t) : ∃ o, AccountsFor s.polled t o :=
  (step_inversion hb h).elim Waits.accountsFor fun hd => hd.2.accountsFor

/-- Settles O49: each way a Poll can go accounts for its outcome. -/
theorem outcomeFixesTheCounters : Obligations.OutcomeFixesTheCounters := by
  unfold Obligations.OutcomeFixesTheCounters
  intro s t hb hstep
  obtain ⟨o, ho, hrx, htx, herr, hkept⟩ := step_accountsFor hb hstep
  rw [polled_nv] at hkept
  refine ⟨o, ho, hrx.trans ?_, htx.trans ?_, herr.trans ?_, hkept⟩
  · cases o <;> simp [PollOutcome.rxAfter]
  · cases o <;> simp [PollOutcome.txAfter]
  · cases o <;> simp [PollOutcome.errAfter]

/-- No outcome counts an answer or an error without a received frame. -/
theorem PollOutcome.after_le_rxAfter (o : PollOutcome) {rx tx err : BitVec 16} (htx : tx.toNat ≤ rx.toNat)
    (herr : err.toNat ≤ rx.toNat) (hwrap : rx.toNat < 65535) :
    (o.txAfter tx).toNat ≤ (o.rxAfter rx).toNat ∧ (o.errAfter err).toNat ≤ (o.rxAfter rx).toNat := by
  have hcounted : ∀ c : BitVec 16, c.toNat ≤ rx.toNat → (c + 1).toNat ≤ (rx + 1).toNat := fun c h => by bv_omega
  have hkept : ∀ c : BitVec 16, c.toNat ≤ rx.toNat → c.toNat ≤ (rx + 1).toNat := fun c h => by bv_omega
  cases o with
  | noFrame | pending => exact ⟨htx, herr⟩
  | notAddressed => exact ⟨hkept tx htx, hkept err herr⟩
  | captureOverflow | noReply | respOverflow => exact ⟨hkept tx htx, hcounted err herr⟩
  | exception c => exact ⟨hcounted tx htx, hcounted err herr⟩
  | done m => exact ⟨hcounted tx htx, hkept err herr⟩

/-- Settles O50: the inequality holds of the counters a Poll starts with, also where they are a power-up's zeros, and its
outcome keeps it. -/
theorem countersNeverExceedTheReceived : Obligations.CountersNeverExceedTheReceived := by
  unfold Obligations.CountersNeverExceedTheReceived
  intro s t hb htx herr hwrap hstep
  have hpolled : s.polled.txCnt.toNat ≤ s.polled.rxCnt.toNat ∧ s.polled.errCnt.toNat ≤ s.polled.rxCnt.toNat ∧
      s.polled.rxCnt.toNat < 65535 := by
    obtain h | h := polled_counters s
    · rw [h.rxCnt, h.txCnt, h.errCnt]; exact ⟨htx, herr, hwrap⟩
    · rw [h.rxCnt, h.txCnt, h.errCnt]; decide
  obtain ⟨htx₀, herr₀, hwrap₀⟩ := hpolled
  obtain ⟨o, h⟩ := step_accountsFor hb hstep
  rw [h.rxCnt, h.txCnt, h.errCnt]
  exact o.after_le_rxAfter htx₀ herr₀ hwrap₀

end Sys2Proof.Machine
end
